-- ==== Sys2Proof/Word.lean ====
section
/-! DEFINITION. The widths of the machine's values (00_scope.md R5, R8): all unsigned, no sign extension anywhere. -/

namespace Sys2Proof

/-- A memory byte, a general register, a timer: 8 bits. -/
abbrev Byte := BitVec 8

/-- A 4-bit field: a register index, a key number, the literal `n`, a sub-opcode. -/
abbrev Nibble := BitVec 4

/-- A 12-bit address: `I`, `PC`, a call-stack entry, the field `nnn`. -/
abbrev Addr := BitVec 12

/-- The OpCode component (R92): a raw 16-bit word; every one of the 65536 values is one. -/
abbrev OpCode := BitVec 16

end Sys2Proof
end

