-- ==== Sys2Proof/Config.lean ====
section
/-! DEFINITION. The parameters of a machine instance (00_scope.md R6) and the free values: the answers of the collaborators,
inputs the core does not control (00_scope.md R12, R18). -/

namespace Sys2Proof

/-- The two display resolutions (R5, R12): `low` is 64 wide and 32 high, `high` is 128 wide and 64 high. -/
inductive Resolution where
  | low
  | high
  deriving DecidableEq, Repr, Inhabited

/-- The three parameters a model takes as arguments (R6). Fixed for a machine instance (10_state.md R41). -/
structure Params where
  /-- `ORIGIN`: where the program is loaded and where execution starts. -/
  origin : Addr
  /-- `FONT_BASE`: the address of the first font byte. -/
  fontBase : Addr
  /-- `FONT_DATA`: 80 bytes, 16 glyphs of 5 bytes. -/
  fontData : List Byte
  deriving DecidableEq, Repr

namespace Config

/-- The default `FONT_DATA` of 20_memory.md R72, glyph by glyph (PRESUMED by the spec itself: from general knowledge; log 4). -/
def fontTable : List Byte :=
  [0xF0, 0x90, 0x90, 0x90, 0xF0] ++ [0x20, 0x60, 0x20, 0x20, 0x70] ++
  [0xF0, 0x10, 0xF0, 0x80, 0xF0] ++ [0xF0, 0x10, 0xF0, 0x10, 0xF0] ++
  [0x90, 0x90, 0xF0, 0x10, 0x10] ++ [0xF0, 0x80, 0xF0, 0x10, 0xF0] ++
  [0xF0, 0x80, 0xF0, 0x90, 0xF0] ++ [0xF0, 0x10, 0x20, 0x40, 0x40] ++
  [0xF0, 0x90, 0xF0, 0x90, 0xF0] ++ [0xF0, 0x90, 0xF0, 0x10, 0xF0] ++
  [0xF0, 0x90, 0xF0, 0x90, 0x90] ++ [0xE0, 0x90, 0xE0, 0x90, 0xE0] ++
  [0xF0, 0x80, 0x80, 0x80, 0xF0] ++ [0xE0, 0x90, 0x90, 0x90, 0xE0] ++
  [0xF0, 0x80, 0xF0, 0x80, 0xF0] ++ [0xF0, 0x80, 0xF0, 0x80, 0x80]

/-- The defaults of R6: `ORIGIN` 0x200, `FONT_BASE` 0x000, the font table of R72 (log 4). -/
def standard : Params := { origin := 0x200, fontBase := 0x000, fontData := fontTable }

/-- `RAND` (10_state.md R48): the byte the random source gives at the `n`-th free query. No law (log 1). -/
opaque freeRandom : Nat → Byte

/-- `KEY(k)` (R46): whether key `k` is down at the `n`-th free query. Nothing relates two samples (log 1). -/
opaque freeKeyDown : Nat → Nibble → Bool

/-- `RES` (R44): the resolution an external display reports at the `n`-th free query (log 1). -/
opaque freeResolution : Nat → Resolution

/-- `TOGGLE(px, py)` (R44): an external display's answer "was already set" at the `n`-th free query (log 1). -/
opaque freePixelWasSet : Nat → Nat → Nat → Bool

end Config

end Sys2Proof
end

