-- ==== Sys2Proof/Syntax.lean ====
section
/-! DEFINITION. The Instruction component (30_encoding.md R94): one constructor per row of R100, in the table's order. The operand
types hold exactly the operands' ranges (R93), so no ill-ranged instruction can be written down. -/

namespace Sys2Proof

/-- The forty instructions. `x` and `y` index general registers, `n` is a 4-bit literal, `kk` an 8-bit immediate, `nnn` a
12-bit absolute address (00_scope.md R13). The two shifts carry no `y` (R103). -/
inductive Instr where
  /-- `SCD n`, 00Cn, R185. -/
  | scd (n : Nibble)
  /-- `CLS`, 00E0, R181. -/
  | cls
  /-- `RET`, 00EE, R123. -/
  | ret
  /-- `SCR`, 00FB, R186. -/
  | scr
  /-- `SCL`, 00FC, R187. -/
  | scl
  /-- `EXIT`, 00FD, R188. -/
  | exit
  /-- `LOW`, 00FE, R183. -/
  | low
  /-- `HIGH`, 00FF, R184. -/
  | high
  /-- `JP nnn`, 1nnn, R120. -/
  | jp (nnn : Addr)
  /-- `CALL nnn`, 2nnn, R122. -/
  | call (nnn : Addr)
  /-- `SE Vx, kk`, 3xkk, R130. -/
  | seImm (x : Nibble) (kk : Byte)
  /-- `SNE Vx, kk`, 4xkk, R131. -/
  | sneImm (x : Nibble) (kk : Byte)
  /-- `SE Vx, Vy`, 5xy0, R132. -/
  | seReg (x y : Nibble)
  /-- `LD Vx, kk`, 6xkk, R155. -/
  | ldImm (x : Nibble) (kk : Byte)
  /-- `ADD Vx, kk`, 7xkk, R156. -/
  | addImm (x : Nibble) (kk : Byte)
  /-- `LD Vx, Vy`, 8xy0, R140. -/
  | ldReg (x y : Nibble)
  /-- `OR Vx, Vy`, 8xy1, R141. -/
  | orReg (x y : Nibble)
  /-- `AND Vx, Vy`, 8xy2, R142. -/
  | andReg (x y : Nibble)
  /-- `XOR Vx, Vy`, 8xy3, R143. -/
  | xorReg (x y : Nibble)
  /-- `ADD Vx, Vy`, 8xy4, R144. -/
  | addReg (x y : Nibble)
  /-- `SUB Vx, Vy`, 8xy5, R145. -/
  | subReg (x y : Nibble)
  /-- `SHR Vx`, 8xy6 for every y, R146. -/
  | shr (x : Nibble)
  /-- `SUBN Vx, Vy`, 8xy7, R147. -/
  | subnReg (x y : Nibble)
  /-- `SHL Vx`, 8xyE for every y, R148. -/
  | shl (x : Nibble)
  /-- `SNE Vx, Vy`, 9xy0, R133. -/
  | sneReg (x y : Nibble)
  /-- `LD I, nnn`, Annn, R160. -/
  | ldI (nnn : Addr)
  /-- `JP V0, nnn`, Bnnn, R121. -/
  | jpV0 (nnn : Addr)
  /-- `RND Vx, kk`, Cxkk, R173. -/
  | rnd (x : Nibble) (kk : Byte)
  /-- `DRW Vx, Vy, n`, Dxyn, R180. -/
  | drw (x y n : Nibble)
  /-- `SKP Vx`, Ex9E, R134. -/
  | skp (x : Nibble)
  /-- `SKNP Vx`, ExA1, R135. -/
  | sknp (x : Nibble)
  /-- `LD Vx, DT`, Fx07, R170. -/
  | ldVxDt (x : Nibble)
  /-- `LD Vx, K`, Fx0A, R200. -/
  | ldVxK (x : Nibble)
  /-- `LD DT, Vx`, Fx15, R171. -/
  | ldDtVx (x : Nibble)
  /-- `LD ST, Vx`, Fx18, R172. -/
  | ldStVx (x : Nibble)
  /-- `ADD I, Vx`, Fx1E, R161. -/
  | addI (x : Nibble)
  /-- `LD F, Vx`, Fx29, R162. -/
  | ldF (x : Nibble)
  /-- `LD B, Vx`, Fx33, R163. -/
  | ldB (x : Nibble)
  /-- `LD [I], Vx`, Fx55, R164. -/
  | ldMemVx (x : Nibble)
  /-- `LD Vx, [I]`, Fx65, R165. -/
  | ldVxMem (x : Nibble)
  deriving DecidableEq, Repr

end Sys2Proof
end

