-- ==== Sys2Proof/WellFormed.lean ====
section
/-! DEFINITION. The checks on what a user of the model writes down: instructions, parameters, program images. -/

namespace Sys2Proof

/-- An instruction needs no check: its operand types are exactly the ranges of 30_encoding.md R93 ("every field value is a
legal operand and no decoded instruction has an out-of-range operand"), so each of the forty variants is accepted (log 15). -/
def Instr.wellFormed : Instr → Bool
  | _ => true

/-- 00_scope.md R6, first check: `FONT_BASE + 80 <= 0x200`. -/
def Params.fontFits (p : Params) : Bool :=
  p.fontBase.toNat + 80 ≤ 0x200

/-- 00_scope.md R6, second check: `FONT_DATA` is 80 bytes. -/
def Params.fontComplete (p : Params) : Bool :=
  p.fontData.length = 80

/-- A parameter set that R6 admits. -/
def Params.wellFormed (p : Params) : Bool :=
  p.fontFits && p.fontComplete

/-- 20_memory.md R69: an image of bytes at `origin` that stays inside the 4096 bytes of memory. -/
def imageFits (origin : Addr) (bytes : List Byte) : Bool :=
  origin.toNat + bytes.length ≤ 4096

end Sys2Proof
end

