-- ==== Sys2Proof/Decode.lean ====
section
/-! DEFINITION. The OpCode accessors, the decoder (opcode multiplexer), the encoder and the opcode map of 30_encoding.md. -/

namespace Sys2Proof

/-! ## Named bit fields of a word: accessors and insertions (R92; 00_scope.md R7, R13) -/

/-- `op(w) = w[15:12]`. -/
def OpCode.op (w : OpCode) : Nibble := w.extractLsb' 12 4
/-- `x(w) = w[11:8]`. -/
def OpCode.x (w : OpCode) : Nibble := w.extractLsb' 8 4
/-- `y(w) = w[7:4]`. -/
def OpCode.y (w : OpCode) : Nibble := w.extractLsb' 4 4
/-- `n(w) = w[3:0]`. -/
def OpCode.n (w : OpCode) : Nibble := w.extractLsb' 0 4
/-- `kk(w) = w[7:0]`. -/
def OpCode.kk (w : OpCode) : Byte := w.extractLsb' 0 8
/-- `nnn(w) = w[11:0]`. -/
def OpCode.nnn (w : OpCode) : Addr := w.extractLsb' 0 12
/-- `prefix12(w) = w[15:4]`. -/
def OpCode.prefix12 (w : OpCode) : BitVec 12 := w.extractLsb' 4 12
/-- The byte stored at the lower address: `w[15:8]` (20_memory.md R68). -/
def OpCode.highByte (w : OpCode) : Byte := w.extractLsb' 8 8

/-- `w` with its field `op` replaced, the other bits unchanged. -/
def OpCode.withOp (w : OpCode) (f : Nibble) : OpCode := f ++ w.nnn
/-- `w` with its field `x` replaced. -/
def OpCode.withX (w : OpCode) (f : Nibble) : OpCode := w.op ++ f ++ w.kk
/-- `w` with its field `y` replaced. -/
def OpCode.withY (w : OpCode) (f : Nibble) : OpCode := w.op ++ w.x ++ f ++ w.n
/-- `w` with its field `n` replaced. -/
def OpCode.withN (w : OpCode) (f : Nibble) : OpCode := w.prefix12 ++ f
/-- `w` with its field `kk` replaced. -/
def OpCode.withKk (w : OpCode) (f : Byte) : OpCode := w.op ++ w.x ++ f
/-- `w` with its field `nnn` replaced. -/
def OpCode.withNnn (w : OpCode) (f : Addr) : OpCode := w.op ++ f
/-- `w` with its field `prefix12` replaced. -/
def OpCode.withPrefix12 (w : OpCode) (f : BitVec 12) : OpCode := f ++ w.n

/-! ## The decoder -/

/-- Why decoding stops: R101's "explicit 'unsupported opcode' error carrying the offending bit pattern", or a byte sequence
too short to hold an instruction. -/
inductive DecodeFault where
  | unsupportedOpcode (w : OpCode)
  | truncated
  deriving DecidableEq, Repr

/-- Group `op = 0x0` (R96): the whole word takes part. -/
def decodeGroup0 (w : OpCode) : Option Instr :=
  if w.prefix12 = 0x00C#12 then some (.scd w.n)
  else if w = 0x00E0#16 then some .cls
  else if w = 0x00EE#16 then some .ret
  else if w = 0x00FB#16 then some .scr
  else if w = 0x00FC#16 then some .scl
  else if w = 0x00FD#16 then some .exit
  else if w = 0x00FE#16 then some .low
  else if w = 0x00FF#16 then some .high
  else none

/-- Group `op = 0x8` (R97): the low nibble selects; the shifts ignore `y` (R103). -/
def decodeGroup8 (w : OpCode) : Option Instr :=
  if w.n = 0x0#4 then some (.ldReg w.x w.y)
  else if w.n = 0x1#4 then some (.orReg w.x w.y)
  else if w.n = 0x2#4 then some (.andReg w.x w.y)
  else if w.n = 0x3#4 then some (.xorReg w.x w.y)
  else if w.n = 0x4#4 then some (.addReg w.x w.y)
  else if w.n = 0x5#4 then some (.subReg w.x w.y)
  else if w.n = 0x6#4 then some (.shr w.x)
  else if w.n = 0x7#4 then some (.subnReg w.x w.y)
  else if w.n = 0xE#4 then some (.shl w.x)
  else none

/-- Group `op = 0xE` (R99): the low byte selects. -/
def decodeGroupE (w : OpCode) : Option Instr :=
  if w.kk = 0x9E#8 then some (.skp w.x)
  else if w.kk = 0xA1#8 then some (.sknp w.x)
  else none

/-- Group `op = 0xF` (R99): the low byte selects. -/
def decodeGroupF (w : OpCode) : Option Instr :=
  if w.kk = 0x07#8 then some (.ldVxDt w.x)
  else if w.kk = 0x0A#8 then some (.ldVxK w.x)
  else if w.kk = 0x15#8 then some (.ldDtVx w.x)
  else if w.kk = 0x18#8 then some (.ldStVx w.x)
  else if w.kk = 0x1E#8 then some (.addI w.x)
  else if w.kk = 0x29#8 then some (.ldF w.x)
  else if w.kk = 0x33#8 then some (.ldB w.x)
  else if w.kk = 0x55#8 then some (.ldMemVx w.x)
  else if w.kk = 0x65#8 then some (.ldVxMem w.x)
  else none

/-- The first level of the multiplexer (R95): on the top nibble, sixteen ways; groups 5 and 9 need a zero low nibble (R98). -/
def decodeOp (w : OpCode) : Option Instr :=
  if w.op = 0x0#4 then decodeGroup0 w
  else if w.op = 0x1#4 then some (.jp w.nnn)
  else if w.op = 0x2#4 then some (.call w.nnn)
  else if w.op = 0x3#4 then some (.seImm w.x w.kk)
  else if w.op = 0x4#4 then some (.sneImm w.x w.kk)
  else if w.op = 0x5#4 then (if w.n = 0x0#4 then some (.seReg w.x w.y) else none)
  else if w.op = 0x6#4 then some (.ldImm w.x w.kk)
  else if w.op = 0x7#4 then some (.addImm w.x w.kk)
  else if w.op = 0x8#4 then decodeGroup8 w
  else if w.op = 0x9#4 then (if w.n = 0x0#4 then some (.sneReg w.x w.y) else none)
  else if w.op = 0xA#4 then some (.ldI w.nnn)
  else if w.op = 0xB#4 then some (.jpV0 w.nnn)
  else if w.op = 0xC#4 then some (.rnd w.x w.kk)
  else if w.op = 0xD#4 then some (.drw w.x w.y w.n)
  else if w.op = 0xE#4 then decodeGroupE w
  else decodeGroupF w

/-- `decode(w)`: total; an unsupported word is rejected by name with its bit pattern (R101). -/
def decode (w : OpCode) : Except DecodeFault Instr :=
  match decodeOp w with
  | some i => .ok i
  | none => .error (.unsupportedOpcode w)

/-- Decoding from bytes in address order: two bytes, the most significant first (R90, 20_memory.md R68). -/
def decodeBytes : List Byte → Except DecodeFault (Instr × List Byte)
  | hi :: lo :: rest =>
    match decode (hi ++ lo) with
    | .ok i => .ok (i, rest)
    | .error e => .error e
  | _ => .error .truncated

/-- The word whose bits are numbered as spec/opcode_table.json numbers them: the low `nbits` bits of `w`, zero above. -/
def tableWord (nbits w : Nat) : OpCode := BitVec.ofNat 16 (w % 2 ^ nbits)

/-- The instruction the decoder reads from that word laid out in memory order. -/
def decodeTableWord (nbits w : Nat) : Option Instr :=
  match decodeBytes [(tableWord nbits w).highByte, (tableWord nbits w).kk] with
  | .ok (i, _) => some i
  | .error _ => none

/-! ## The encoder (R91, R104) -/

/-- Format `PN`: a 12-bit prefix and a 4-bit literal. -/
def formatPN (prefix12 : BitVec 12) (n : Nibble) : OpCode := prefix12 ++ n
/-- Format `XS`: opcode nibble, register, 8-bit sub-opcode. Format `XK` has the same layout with an immediate. -/
def formatXS (op x : Nibble) (kk : Byte) : OpCode := op ++ x ++ kk
/-- Format `XYS`: opcode nibble, two registers, 4-bit sub-opcode. Format `XYN` has the same layout with a literal. -/
def formatXYS (op x y n : Nibble) : OpCode := op ++ x ++ y ++ n
/-- Format `A`: opcode nibble and 12-bit address. -/
def formatA (op : Nibble) (nnn : Addr) : OpCode := op ++ nnn

/-- `encode(ins)`: total and deterministic (R104); the shifts are written with `y = 0` (R103). -/
def encode : Instr → OpCode
  | .scd n => formatPN 0x00C n
  | .cls => 0x00E0
  | .ret => 0x00EE
  | .scr => 0x00FB
  | .scl => 0x00FC
  | .exit => 0x00FD
  | .low => 0x00FE
  | .high => 0x00FF
  | .jp nnn => formatA 0x1 nnn
  | .call nnn => formatA 0x2 nnn
  | .seImm x kk => formatXS 0x3 x kk
  | .sneImm x kk => formatXS 0x4 x kk
  | .seReg x y => formatXYS 0x5 x y 0x0
  | .ldImm x kk => formatXS 0x6 x kk
  | .addImm x kk => formatXS 0x7 x kk
  | .ldReg x y => formatXYS 0x8 x y 0x0
  | .orReg x y => formatXYS 0x8 x y 0x1
  | .andReg x y => formatXYS 0x8 x y 0x2
  | .xorReg x y => formatXYS 0x8 x y 0x3
  | .addReg x y => formatXYS 0x8 x y 0x4
  | .subReg x y => formatXYS 0x8 x y 0x5
  | .shr x => formatXYS 0x8 x 0x0 0x6
  | .subnReg x y => formatXYS 0x8 x y 0x7
  | .shl x => formatXYS 0x8 x 0x0 0xE
  | .sneReg x y => formatXYS 0x9 x y 0x0
  | .ldI nnn => formatA 0xA nnn
  | .jpV0 nnn => formatA 0xB nnn
  | .rnd x kk => formatXS 0xC x kk
  | .drw x y n => formatXYS 0xD x y n
  | .skp x => formatXS 0xE x 0x9E
  | .sknp x => formatXS 0xE x 0xA1
  | .ldVxDt x => formatXS 0xF x 0x07
  | .ldVxK x => formatXS 0xF x 0x0A
  | .ldDtVx x => formatXS 0xF x 0x15
  | .ldStVx x => formatXS 0xF x 0x18
  | .addI x => formatXS 0xF x 0x1E
  | .ldF x => formatXS 0xF x 0x29
  | .ldB x => formatXS 0xF x 0x33
  | .ldMemVx x => formatXS 0xF x 0x55
  | .ldVxMem x => formatXS 0xF x 0x65

/-- The bytes of an instruction in address order. -/
def encodeBytes (i : Instr) : List Byte := [(encode i).highByte, (encode i).kk]

/-! ## The opcode map (R100) -/

/-- One row of R100: `w` is the instruction exactly when `w & mask = pattern`. -/
structure OpcodeRow where
  mask : OpCode
  pattern : OpCode
  deriving DecidableEq, Repr

/-- `w & mask = match`. -/
def OpcodeRow.covers (r : OpcodeRow) (w : OpCode) : Bool := w &&& r.mask = r.pattern

/-- The row of R100 an instruction stands in. -/
def opcodeRow : Instr → OpcodeRow
  | .scd _ => ⟨0xFFF0, 0x00C0⟩
  | .cls => ⟨0xFFFF, 0x00E0⟩
  | .ret => ⟨0xFFFF, 0x00EE⟩
  | .scr => ⟨0xFFFF, 0x00FB⟩
  | .scl => ⟨0xFFFF, 0x00FC⟩
  | .exit => ⟨0xFFFF, 0x00FD⟩
  | .low => ⟨0xFFFF, 0x00FE⟩
  | .high => ⟨0xFFFF, 0x00FF⟩
  | .jp _ => ⟨0xF000, 0x1000⟩
  | .call _ => ⟨0xF000, 0x2000⟩
  | .seImm _ _ => ⟨0xF000, 0x3000⟩
  | .sneImm _ _ => ⟨0xF000, 0x4000⟩
  | .seReg _ _ => ⟨0xF00F, 0x5000⟩
  | .ldImm _ _ => ⟨0xF000, 0x6000⟩
  | .addImm _ _ => ⟨0xF000, 0x7000⟩
  | .ldReg _ _ => ⟨0xF00F, 0x8000⟩
  | .orReg _ _ => ⟨0xF00F, 0x8001⟩
  | .andReg _ _ => ⟨0xF00F, 0x8002⟩
  | .xorReg _ _ => ⟨0xF00F, 0x8003⟩
  | .addReg _ _ => ⟨0xF00F, 0x8004⟩
  | .subReg _ _ => ⟨0xF00F, 0x8005⟩
  | .shr _ => ⟨0xF00F, 0x8006⟩
  | .subnReg _ _ => ⟨0xF00F, 0x8007⟩
  | .shl _ => ⟨0xF00F, 0x800E⟩
  | .sneReg _ _ => ⟨0xF00F, 0x9000⟩
  | .ldI _ => ⟨0xF000, 0xA000⟩
  | .jpV0 _ => ⟨0xF000, 0xB000⟩
  | .rnd _ _ => ⟨0xF000, 0xC000⟩
  | .drw _ _ _ => ⟨0xF000, 0xD000⟩
  | .skp _ => ⟨0xF0FF, 0xE09E⟩
  | .sknp _ => ⟨0xF0FF, 0xE0A1⟩
  | .ldVxDt _ => ⟨0xF0FF, 0xF007⟩
  | .ldVxK _ => ⟨0xF0FF, 0xF00A⟩
  | .ldDtVx _ => ⟨0xF0FF, 0xF015⟩
  | .ldStVx _ => ⟨0xF0FF, 0xF018⟩
  | .addI _ => ⟨0xF0FF, 0xF01E⟩
  | .ldF _ => ⟨0xF0FF, 0xF029⟩
  | .ldB _ => ⟨0xF0FF, 0xF033⟩
  | .ldMemVx _ => ⟨0xF0FF, 0xF055⟩
  | .ldVxMem _ => ⟨0xF0FF, 0xF065⟩

/-- The whole map of R100, the forty rows in order. -/
def opcodeTable : List OpcodeRow :=
  [⟨0xFFF0, 0x00C0⟩, ⟨0xFFFF, 0x00E0⟩, ⟨0xFFFF, 0x00EE⟩, ⟨0xFFFF, 0x00FB⟩, ⟨0xFFFF, 0x00FC⟩] ++
  [⟨0xFFFF, 0x00FD⟩, ⟨0xFFFF, 0x00FE⟩, ⟨0xFFFF, 0x00FF⟩, ⟨0xF000, 0x1000⟩, ⟨0xF000, 0x2000⟩] ++
  [⟨0xF000, 0x3000⟩, ⟨0xF000, 0x4000⟩, ⟨0xF00F, 0x5000⟩, ⟨0xF000, 0x6000⟩, ⟨0xF000, 0x7000⟩] ++
  [⟨0xF00F, 0x8000⟩, ⟨0xF00F, 0x8001⟩, ⟨0xF00F, 0x8002⟩, ⟨0xF00F, 0x8003⟩, ⟨0xF00F, 0x8004⟩] ++
  [⟨0xF00F, 0x8005⟩, ⟨0xF00F, 0x8006⟩, ⟨0xF00F, 0x8007⟩, ⟨0xF00F, 0x800E⟩, ⟨0xF00F, 0x9000⟩] ++
  [⟨0xF000, 0xA000⟩, ⟨0xF000, 0xB000⟩, ⟨0xF000, 0xC000⟩, ⟨0xF000, 0xD000⟩, ⟨0xF0FF, 0xE09E⟩] ++
  [⟨0xF0FF, 0xE0A1⟩, ⟨0xF0FF, 0xF007⟩, ⟨0xF0FF, 0xF00A⟩, ⟨0xF0FF, 0xF015⟩, ⟨0xF0FF, 0xF018⟩] ++
  [⟨0xF0FF, 0xF01E⟩, ⟨0xF0FF, 0xF029⟩, ⟨0xF0FF, 0xF033⟩, ⟨0xF0FF, 0xF055⟩, ⟨0xF0FF, 0xF065⟩]

end Sys2Proof
end

