-- ==== Sys2Proof/Machine/State.lean ====
section
/-! DEFINITION. Everything the spec gives the machine (10_state.md R20), what a step returns beside it (R42), the reasons an
operation can stop, and the state after reset (R51, R240). -/

namespace Sys2Proof.Machine

/-- Why the machine could stop with a fault: never. The spec's four errors stop the ENGINE, not the model: each is a next
state in which `ES` is Halted (60_exceptions.md R216; log 8), so no constructor is needed. Safe. -/
inductive Fault : Type
  deriving DecidableEq, Repr

/-- What has no meaning. -/
inductive Refusal where
  /-- Raised by an arm of `exec` whose instruction is not modelled; no arm is such. Safe. -/
  | notModelled (mnemonic : String)
  /-- Raised by the host operation `load` outside the boot window (20_memory.md R70: "A model refuses a `load` at any other
  time"). No instruction raises it. Safe. -/
  | loadAfterBoot
  deriving DecidableEq, Repr

/-- The four errors (60_exceptions.md R212, R214). -/
inductive EngineError where
  /-- `DecodeError(w)`: the word `w` matches no row of the opcode map. -/
  | decodeError (w : OpCode)
  /-- `MemoryError(a)`: `a` is the first out-of-range address. -/
  | memoryError (a : Nat)
  /-- A call with sixteen entries on the stack. -/
  | stackOverflow
  /-- A return with none. -/
  | stackUnderflow
  deriving DecidableEq, Repr

/-- The halt cause (10_state.md R37): the EXIT instruction, which is not an error, or one of the four errors. -/
inductive HaltCause where
  | exit
  | error (e : EngineError)
  deriving DecidableEq, Repr

/-- The engine state `ES` (10_state.md R36). -/
inductive EngineState where
  /-- Normal fetch, decode, execute. -/
  | ready
  /-- Suspended until a key is delivered, which register `x` will receive. -/
  | awaitingKey (x : Nibble)
  /-- Stopped until `reset()`. -/
  | halted (c : HaltCause)
  deriving DecidableEq, Repr

/-- One observable effect (10_state.md R42). -/
inductive Effect where
  /-- DRW called `set_pixel(px, py)` and the display answered `wasSet`. -/
  | pixelToggle (px py : Nat) (wasSet : Bool)
  | clear
  | scrollDown (n : Nibble)
  | scrollRight
  | scrollLeft
  | setMode (m : Resolution)
  | exitRequested
  deriving DecidableEq, Repr

/-- What a step returns beside the new state (60_exceptions.md R210): its effects in the order produced, and the error report. -/
structure StepOutput where
  effects : List Effect
  report : Option EngineError
  deriving DecidableEq, Repr

/-- The frame buffer of the reference display (46_display.md R192): row `py` is the `py`-th element, pixel `px` its bit `px`. -/
abbrev Frame := Vector (BitVec 128) 64

/-- The reference display: the mode `HIRES` and the frame buffer `FB` (46_display.md R192). -/
structure RefDisplay where
  mode : Resolution
  fb : Frame
  deriving DecidableEq, Repr

/-- What stands at the display port: some display, whose answers are free, or the reference display (00_scope.md R18; log 3). -/
inductive Display where
  | external
  | reference (d : RefDisplay)
  deriving DecidableEq, Repr

/-- What the core meets at its input ports. The model's own fields: they hold no state of the core (10_state.md R41). -/
structure Ports where
  /-- How many free answers have been given so far; it indexes the free values of Config (log 1). -/
  draws : Nat
  /-- Answers laid down for the next queries of `RAND`; where there is none the answer is free (log 2). -/
  random : List Byte
  /-- Samples of the sixteen key levels (bit `k` is key `k`) laid down for the next queries of `KEY`; where there is none the
  answer is free (log 2). -/
  keypad : List (BitVec 16)
  /-- The display port. -/
  display : Display
  deriving DecidableEq, Repr

/-- The 4096-byte store (20_memory.md R60) as a canonical list: addresses strictly rising, no entry equal to what its address
reads as when it is not listed (`Memory.unlisted`). -/
abbrev Memory := List Host.Cell

/-- The whole state (10_state.md R20), with what the last operation returned and the ports. -/
structure State where
  /-- `V[0]` to `V[15]`; `V[15]` is VF. -/
  v : Vector Byte 16
  /-- The address register. -/
  i : Addr
  /-- The delay timer. -/
  dt : Byte
  /-- The sound timer. -/
  st : Byte
  /-- The program counter. -/
  pc : Addr
  /-- The number of live stack entries, 0 to 16 (R32). -/
  sp : Fin 17
  /-- The call stack, dead entries included (R33). -/
  stack : Vector Addr 16
  /-- The memory. -/
  mem : Memory
  /-- The engine state. -/
  es : EngineState
  /-- What the most recent `step` or `load` returned (R42; log 5). -/
  out : StepOutput
  /-- Whether `load` still has a meaning (20_memory.md R70; log 6). -/
  booting : Bool
  /-- The parameters of this machine instance; no operation changes them (00_scope.md R6; log 4). -/
  params : Params
  /-- The ports. -/
  ports : Ports
  deriving DecidableEq, Repr

/-- A blank reference display in Low mode (46_display.md R192). -/
def RefDisplay.blank : RefDisplay := { mode := .low, fb := Vector.replicate 64 0#128 }

/-- Ports with nothing laid down and an external display (log 1, log 2, log 3). -/
def Ports.free : Ports := { draws := 0, random := [], keypad := [], display := .external }

/-- The state after `reset()` of a machine with parameters `p` (10_state.md R51, 70_reset_and_hazards.md R240): registers,
timers and stack zero, `PC = ORIGIN`, `ES = Ready`, every memory byte at its reset content (nothing listed; log 10). -/
def State.resetWith (p : Params) : State :=
  { v := Vector.replicate 16 0#8, i := 0, dt := 0, st := 0, pc := p.origin, sp := 0,
    stack := Vector.replicate 16 0#12, mem := [], es := .ready,
    out := { effects := [], report := none }, booting := true, params := p, ports := Ports.free }

/-- The state after reset of the machine with the spec's default parameters. -/
def State.reset : State := State.resetWith Config.standard

end Sys2Proof.Machine
end

