-- ==== Sys2Proof/Machine/Display.lean ====
section
/-! DEFINITION. The display port's operations (10_state.md R44, R45) and the reference display, the spec's own environment model
(46_display.md R192 to R197). -/

namespace Sys2Proof.Machine

/-- `W`, the width of a resolution in pixels (00_scope.md R12). -/
def screenWidth : Resolution → Nat
  | .low => 64
  | .high => 128

/-- `H`, its height. -/
def screenHeight : Resolution → Nat
  | .low => 32
  | .high => 64

/-- `FB[px][py]`; a position outside the buffer holds no pixel. -/
def Frame.pixel (fb : Frame) (px py : Nat) : Bool :=
  match fb[py]? with
  | some row => row.getLsbD px
  | none => false

/-- The frame buffer whose pixel at each position is what `f` says there. -/
def Frame.build (f : Nat → Nat → Bool) : Frame :=
  ⟨((List.range 64).map fun py => BitVec.ofFnLE fun px : Fin 128 => f px.val py).toArray, by simp⟩

/-- `FB[px][py] <- 1 - FB[px][py]`, every other pixel unchanged. -/
def Frame.flip (fb : Frame) (px py : Nat) : Frame :=
  match fb[py]? with
  | some row => fb.setIfInBounds py (row ^^^ BitVec.twoPow 128 px)
  | none => fb

/-- Every pixel 0. -/
def Frame.blank : Frame := Vector.replicate 64 0#128

/-- Whether a position lies on the screen of resolution `m`. -/
def onScreen (m : Resolution) (px py : Nat) : Bool := px < screenWidth m && py < screenHeight m

/-- `set_pixel(px, py)` (R193): the pixel is inverted and its old value is the answer. -/
def RefDisplay.setPixel (d : RefDisplay) (px py : Nat) : Bool × RefDisplay :=
  (Frame.pixel d.fb px py, { d with fb := Frame.flip d.fb px py })

/-- `clear()` (R194): every pixel 0, the mode unchanged. -/
def RefDisplay.clear (d : RefDisplay) : RefDisplay := { d with fb := Frame.blank }

/-- `set_mode(m)` (R196): the new mode and a blank buffer, also when the mode is the current one. -/
def RefDisplay.setMode (_ : RefDisplay) (m : Resolution) : RefDisplay := { mode := m, fb := Frame.blank }

/-- `scroll_down(n)` (R197): on the screen each pixel takes the value `n` lines above it, 0 where there is none. -/
def RefDisplay.scrollDown (d : RefDisplay) (n : Nibble) : RefDisplay :=
  { d with fb := Frame.build fun px py =>
      if onScreen d.mode px py then
        (if n.toNat ≤ py then Frame.pixel d.fb px (py - n.toNat) else false)
      else Frame.pixel d.fb px py }

/-- `scroll_right()` (R197): on the screen each pixel takes the value 4 columns to its left, 0 where there is none. -/
def RefDisplay.scrollRight (d : RefDisplay) : RefDisplay :=
  { d with fb := Frame.build fun px py =>
      if onScreen d.mode px py then
        (if 4 ≤ px then Frame.pixel d.fb (px - 4) py else false)
      else Frame.pixel d.fb px py }

/-- `scroll_left()` (R197): on the screen each pixel takes the value 4 columns to its right, 0 where there is none. -/
def RefDisplay.scrollLeft (d : RefDisplay) : RefDisplay :=
  { d with fb := Frame.build fun px py =>
      if onScreen d.mode px py then
        (if px + 4 < screenWidth d.mode then Frame.pixel d.fb (px + 4) py else false)
      else Frame.pixel d.fb px py }

/-- A request of the core takes effect on the reference display; what another display does with it is that display's business
(R45; log 3). -/
def Display.request (d : Display) (change : RefDisplay → RefDisplay) : Display :=
  match d with
  | .external => .external
  | .reference r => .reference (change r)

end Sys2Proof.Machine
end

