-- ==== Sys2Proof/Machine/Flags.lean ====
section
/-! DEFINITION. Every flag computation of the machine: what the six flag writers store into VF (10_state.md R39). All operands
are the values from before the instruction (R24). -/

namespace Sys2Proof.Machine

/-- A flag is 0 or 1, zero-extended to 8 bits (R23; a comparison yields 1 when true, 00_scope.md R8). -/
def flagByte (f : Bool) : Byte := if f then 1 else 0

/-- ADD Vx,Vy: the exact sum exceeds 255 (42_alu.md R144). -/
def addCarry (a b : Byte) : Bool := a.toNat + b.toNat > 255

/-- SUB: no borrow in `a - b`; SUBN asks it with the operands swapped (R145, R147). -/
def subNoBorrow (a b : Byte) : Bool := a.toNat ≥ b.toNat

/-- SHR: the least significant bit, before the shift (R146). -/
def shiftedOutRight (a : Byte) : Bool := a.getLsbD 0

/-- SHL: the most significant bit, before the shift (R148). -/
def shiftedOutLeft (a : Byte) : Bool := a.getLsbD 7

end Sys2Proof.Machine
end

