-- ==== Sys2Proof/Machine/Ops.lean ====
section
/-! DEFINITION. The named operations over registers, memory, call stack and ports, and taking an error. Instruction meanings
are written over these. -/

namespace Sys2Proof.Machine

/-! ## Registers (10_state.md R21, R25, R27) -/

/-- `V[x]`. -/
def State.getV (s : State) (x : Nibble) : Byte := s.v[x.toNat]'(x.isLt)

/-- `V[x] <- b`. No index is special: `V[15]` is written like any register (R23). -/
def State.setV (s : State) (x : Nibble) (b : Byte) : State := { s with v := s.v.set x.toNat b x.isLt }

/-- `V[15] <- flag` (R23): the flag is 0 or 1. -/
def State.setVF (s : State) (f : Bool) : State := s.setV 0xF (flagByte f)

/-- `V[k] <- bs[k]` for every `k` below the length of `bs`; the other registers unchanged. -/
def State.setFirstV (s : State) (bs : List Byte) : State :=
  { s with v := ⟨(bs.take 16 ++ s.v.toList.drop bs.length).toArray, by simp; omega⟩ }

/-- The bytes `V[0]` to `V[x]`, in that order. -/
def State.firstV (s : State) (x : Nibble) : List Byte := s.v.toList.take (x.toNat + 1)

/-- `I <- a`. -/
def State.setI (s : State) (a : Addr) : State := { s with i := a }

/-- `pc <- a`: the register is 12 bits wide, so every value is already reduced mod 4096 (R27). -/
def State.setPc (s : State) (a : Addr) : State := { s with pc := a }

/-- `DT <- b`. -/
def State.setDt (s : State) (b : Byte) : State := { s with dt := b }

/-- `ST <- b`. -/
def State.setSt (s : State) (b : Byte) : State := { s with st := b }

/-- `ES <- e`. -/
def State.setEs (s : State) (e : EngineState) : State := { s with es := e }

/-- `PC <- (PC + 2) mod 4096`: the advance of a step, and the extra advance of a taken skip (R26, R27). -/
def State.advance (s : State) : State := s.setPc (s.pc + 2)

/-! ## Effects and errors -/

/-- `emit e` (00_scope.md R12). -/
def State.emit (s : State) (e : Effect) : State :=
  { s with out := { s.out with effects := s.out.effects ++ [e] } }

/-- TAKING AN ERROR (60_exceptions.md R216): `ES <- Halted(E)`, an empty effect list, the report. No register is saved, no
mode changes, control goes nowhere. There is no return from an error: only `reset()` leaves Halted (R220). -/
def State.raise (s : State) (e : EngineError) : State :=
  { s with es := .halted (.error e), out := { effects := [], report := some e } }

/-- What an operation that may raise leaves: its result, or the error taken in `s`, so that every write it would have made is
discarded (00_scope.md R11). -/
def State.orRaise (s : State) (r : Except EngineError State) : State :=
  match r with
  | .ok t => t
  | .error e => s.raise e

/-- The start of a `step()`: nothing emitted yet, and the boot window is over (20_memory.md R70). -/
def State.beginStep (s : State) : State :=
  { s with out := { effects := [], report := none }, booting := false }

/-! ## Memory (20_memory.md) -/

/-- What an address that the list does not name reads as: its content after reset, the font byte or 0 (R71; 10_state.md R51;
log 10). -/
def Memory.unlisted (p : Params) (a : Nat) : Byte :=
  if p.fontBase.toNat ≤ a ∧ a < p.fontBase.toNat + 80 then p.fontData.getD (a - p.fontBase.toNat) 0 else 0

/-- `MEM[a]`. -/
def Memory.read (p : Params) (a : Nat) : Memory → Byte
  | [] => Memory.unlisted p a
  | c :: m => if c.1 = a then c.2 else Memory.read p a m

/-- Puts a cell before the first one with a higher address. -/
def Memory.insertCell (c : Host.Cell) : Memory → Memory
  | [] => [c]
  | d :: m => if c.1 < d.1 then c :: d :: m else d :: Memory.insertCell c m

/-- `MEM[a] <- b`, in canonical form: writing what the unlisted address reads as removes the entry. -/
def Memory.write (p : Params) (a : Nat) (b : Byte) (m : Memory) : Memory :=
  let rest := m.filter fun c => c.1 != a
  if b = Memory.unlisted p a then rest else Memory.insertCell (a, b) rest

/-- `MEM[a + k] <- bs[k]`, ascending. -/
def Memory.writeList (p : Params) (a : Nat) : List Byte → Memory → Memory
  | [], m => m
  | b :: bs, m => Memory.writeList p (a + 1) bs (Memory.write p a b m)

/-- The canonical form: addresses inside the store and strictly rising, no entry equal to what its address reads as unlisted. -/
def Memory.wf (p : Params) : Memory → Bool
  | [] => true
  | c :: m => decide (c.1 < 4096) && (c.2 != Memory.unlisted p c.1) && m.all (fun d => decide (c.1 < d.1)) && Memory.wf p m

/-- `MEM[a]` in state `s`, for `a` up to 4095. The bounds check is `checkRange`; no instruction reads an address past it. -/
def State.byteAt (s : State) (a : Nat) : Byte := Memory.read s.params a s.mem

/-- The `n` bytes from `a` up. -/
def State.bytesAt (s : State) (a n : Nat) : List Byte := (List.range n).map fun k => s.byteAt (a + k)

/-- Stores `bs` at `a`, `a + 1`, and so on. -/
def State.storeBytes (s : State) (a : Nat) (bs : List Byte) : State :=
  { s with mem := Memory.writeList s.params a bs s.mem }

/-- THE BOUNDS CHECK (R63 to R66; 00_scope.md R10): an access of `n` bytes at the unreduced address `a` raises `MemoryError` of
the lowest of its addresses that is greater than 4095; an access of no byte raises nothing. -/
def checkRange (a n : Nat) : Except EngineError Unit :=
  if n = 0 ∨ a + n ≤ 4096 then .ok () else .error (.memoryError (max a 4096))

/-- `n` bytes from `a` up, all addresses checked first (R66). -/
def State.loadRange (s : State) (a n : Nat) : Except EngineError (List Byte) :=
  (checkRange a n).map fun _ => s.bytesAt a n

/-- `bs` stored from `a` up, all addresses checked before the first write (R66; 60_exceptions.md R218). -/
def State.storeRange (s : State) (a : Nat) (bs : List Byte) : Except EngineError State :=
  (checkRange a bs.length).map fun _ => s.storeBytes a bs

/-- `MemRead(addr, 1)` (R63). -/
def State.memRead1 (s : State) (addr : Nat) : Except EngineError Byte :=
  (checkRange addr 1).map fun _ => s.byteAt addr

/-- `MemRead(addr, 2)` (R64), big-endian: the byte at the lower address is the more significant. -/
def State.memRead2 (s : State) (addr : Nat) : Except EngineError OpCode :=
  (checkRange addr 2).map fun _ => s.byteAt addr ++ s.byteAt (addr + 1)

/-- `MemWrite(addr, 1, v)` (R65). -/
def State.memWrite1 (s : State) (addr : Nat) (b : Byte) : Except EngineError State := s.storeRange addr [b]

/-- `MemWrite(addr, 2, v)` (R65): `v[15:8]` at `addr`, `v[7:0]` above it. No instruction uses it. -/
def State.memWrite2 (s : State) (addr : Nat) (w : OpCode) : Except EngineError State :=
  s.storeRange addr [w.highByte, w.kk]

/-- The fetch (R67): `MemRead(PC, 2)`. -/
def State.fetch (s : State) : Except EngineError OpCode := s.memRead2 s.pc.toNat

/-! ## The call stack (10_state.md R34) -/

/-- `Push(v)`. -/
def State.push (s : State) (a : Addr) : Except EngineError State :=
  if h : s.sp.val < 16 then
    .ok { s with stack := s.stack.set s.sp.val a h, sp := ⟨s.sp.val + 1, by omega⟩ }
  else .error .stackOverflow

/-- `Pop()`: the popped address and the state after; the entry keeps its value (R33). -/
def State.pop (s : State) : Except EngineError (Addr × State) :=
  if h : s.sp.val = 0 then .error .stackUnderflow
  else .ok (s.stack[s.sp.val - 1]'(by omega), { s with sp := ⟨s.sp.val - 1, by omega⟩ })

/-! ## The input ports (10_state.md R44 to R48): the answer, and the state after the query -/

/-- One more free answer has been given (log 1). -/
def State.countDraw (s : State) : State := { s with ports := { s.ports with draws := s.ports.draws + 1 } }

/-- `RAND`: the next byte laid down, or a free one (R48). -/
def State.askRandom (s : State) : Byte × State :=
  match s.ports.random with
  | r :: rest => (r, { s with ports := { s.ports with random := rest } })
  | [] => (Config.freeRandom s.ports.draws, s.countDraw)

/-- `KEY(k)`: the level of key `k` in the next sample laid down, or a free answer (R46). -/
def State.askKey (s : State) (k : Nibble) : Bool × State :=
  match s.ports.keypad with
  | sample :: rest => (sample.getLsbD k.toNat, { s with ports := { s.ports with keypad := rest } })
  | [] => (Config.freeKeyDown s.ports.draws k, s.countDraw)

/-- `RES`: the reference display's mode (46_display.md R195), or a free answer. -/
def State.askResolution (s : State) : Resolution × State :=
  match s.ports.display with
  | .reference d => (d.mode, s)
  | .external => (Config.freeResolution s.ports.draws, s.countDraw)

/-- `TOGGLE(px, py)`: `set_pixel` at the display port, and its answer. -/
def State.askSetPixel (s : State) (px py : Nat) : Bool × State :=
  match s.ports.display with
  | .reference d =>
    ((d.setPixel px py).1, { s with ports := { s.ports with display := .reference (d.setPixel px py).2 } })
  | .external => (Config.freePixelWasSet s.ports.draws px py, s.countDraw)

/-- `set_pixel` with its effect: the answer is in the effect list too (R42). -/
def State.togglePixel (s : State) (px py : Nat) : Bool × State :=
  ((s.askSetPixel px py).1, (s.askSetPixel px py).2.emit (.pixelToggle px py (s.askSetPixel px py).1))

/-- Toggles the pixels in order; the answer is whether any was set before (46_display.md R180). -/
def State.togglePixels (s : State) : List (Nat × Nat) → Bool × State
  | [] => (false, s)
  | p :: ps =>
    ((s.togglePixel p.1 p.2).1 || (State.togglePixels (s.togglePixel p.1 p.2).2 ps).1,
      (State.togglePixels (s.togglePixel p.1 p.2).2 ps).2)

/-- A display request (46_display.md R182): one operation of the display port and the matching effect. -/
def State.requestDisplay (s : State) (change : RefDisplay → RefDisplay) (e : Effect) : State :=
  State.emit { s with ports := { s.ports with display := s.ports.display.request change } } e

/-- Where an instruction word is laid down to be the next one fetched: ES Ready, the word big-endian at PC (20_memory.md R68).
No word can be fetched at 0xFFF (R67), so from there PC moves to 0xFFE (log 11). -/
def State.placeWord (s : State) (w : OpCode) : State :=
  let t := (if s.pc = 0xFFF then s.setPc 0xFFE else s).setEs .ready
  t.storeBytes t.pc.toNat [w.highByte, w.kk]

end Sys2Proof.Machine
end

