-- ==== Sys2Proof/Machine/Operands.lean ====
section
/-! DEFINITION. The operand forms: a register value used as an address offset, as a key number, as a font digit, as three
decimal digits, as a sprite's origin; the sprite of DRW. -/

namespace Sys2Proof.Machine

/-- `zext_12` (00_scope.md R8). -/
def zext12 (b : Byte) : Addr := b.setWidth 12

/-- `v[3:0]`: the low nibble of a register value selects a key (41_skips.md R134) or a font digit (44_address_memory.md R162). -/
def lowNibble (b : Byte) : Nibble := b.extractLsb' 0 4

/-- `zext_8` of a 4-bit value: the key number that LD Vx,K stores (47_key_wait.md R201). -/
def zext8 (k : Nibble) : Byte := k.setWidth 8

/-- `FONT_BASE + 5 * d` (R162), kept to 12 bits as every write of `I` is (10_state.md R25). -/
def fontAddress (p : Params) (d : Nibble) : Addr := p.fontBase + 5 * d.setWidth 12

/-- The decimal digits hundreds, tens, ones, one per byte (R163). -/
def bcdDigits (b : Byte) : List Byte := [b / 100, (b / 10) % 10, b % 10]

/-- The size of a sprite: rows, columns, bytes per row (46_display.md R180). -/
structure SpriteShape where
  rows : Nat
  cols : Nat
  bytesPerRow : Nat
  deriving DecidableEq, Repr

/-- The shape that the literal `n` names at a resolution: `n` rows of 8, or 16 rows of 16 for `n = 0` in High mode, or no row for
`n = 0` in Low mode (R180). -/
def spriteShape (n : Nibble) (res : Resolution) : SpriteShape :=
  if n ≠ 0 then { rows := n.toNat, cols := 8, bytesPerRow := 1 }
  else match res with
    | .high => { rows := 16, cols := 16, bytesPerRow := 2 }
    | .low => { rows := 0, cols := 8, bytesPerRow := 1 }

/-- `total`: how many bytes the sprite has (R180). -/
def SpriteShape.total (sh : SpriteShape) : Nat := sh.rows * sh.bytesPerRow

/-- The bit of row `r`, column `c`: most significant bit leftmost, the byte at the lower address left (R180). -/
def spriteBit (sh : SpriteShape) (bytes : List Byte) (r c : Nat) : Bool :=
  (bytes.getD (r * sh.bytesPerRow + c / 8) 0).getLsbD (7 - c % 8)

/-- The positions of the sprite's 1 bits, row by row, left to right, wrapped on both axes (R180). -/
def spritePixels (sh : SpriteShape) (res : Resolution) (bytes : List Byte) (x y : Nat) : List (Nat × Nat) :=
  (List.range sh.rows).flatMap fun r =>
    (List.range sh.cols).filterMap fun c =>
      if spriteBit sh bytes r c then
        some ((x + c) % screenWidth res, (y + r) % screenHeight res)
      else none

end Sys2Proof.Machine
end

