-- ==== Sys2Proof/Machine/AddressMemory.lean ====
section
/-! DEFINITION. 44_address_memory.md: LD I, ADD I, LD F, LD B, LD [I],Vx, LD Vx,[I]. The one addressing mode is `[I + k]` with the
sum an unreduced integer; no transfer changes `I` (R166). -/

namespace Sys2Proof.Machine

/-- LD I, nnn (R160). -/
def execLdI (nnn : Addr) (s : State) : Host.Outcome State Fault Refusal :=
  .next (s.setI nnn)

/-- ADD I, Vx (R161): mod 4096, no flag. -/
def execAddI (x : Nibble) (s : State) : Host.Outcome State Fault Refusal :=
  .next (s.setI (s.i + zext12 (s.getV x)))

/-- LD F, Vx (R162): the font address of the digit in the low nibble. -/
def execLdF (x : Nibble) (s : State) : Host.Outcome State Fault Refusal :=
  .next (s.setI (fontAddress s.params (lowNibble (s.getV x))))

/-- LD B, Vx (R163): three decimal digits at `I`, or MemoryError with nothing written. -/
def execLdB (x : Nibble) (s : State) : Host.Outcome State Fault Refusal :=
  .next (s.orRaise (s.storeRange s.i.toNat (bcdDigits (s.getV x))))

/-- LD [I], Vx (R164): `V[0]` to `V[x]` at `I`, or MemoryError with nothing written. -/
def execLdMemVx (x : Nibble) (s : State) : Host.Outcome State Fault Refusal :=
  .next (s.orRaise (s.storeRange s.i.toNat (s.firstV x)))

/-- LD Vx, [I] (R165): `V[0]` to `V[x]` from `I`, or MemoryError with no register changed. -/
def execLdVxMem (x : Nibble) (s : State) : Host.Outcome State Fault Refusal :=
  .next (s.orRaise ((s.loadRange s.i.toNat (x.toNat + 1)).map fun bs => s.setFirstV bs))

end Sys2Proof.Machine
end

