-- ==== Sys2Proof/Machine/ControlFlow.lean ====
section
/-! DEFINITION. 40_control_flow.md: JP, JP V0, CALL, RET. A meaning runs after the fetch and the advance, so `s.pc` is NPC. -/

namespace Sys2Proof.Machine

/-- JP nnn (R120). -/
def execJp (nnn : Addr) (s : State) : Host.Outcome State Fault Refusal :=
  .next (s.setPc nnn)

/-- JP V0, nnn (R121): the sum is reduced mod 4096. -/
def execJpV0 (nnn : Addr) (s : State) : Host.Outcome State Fault Refusal :=
  .next (s.setPc (nnn + zext12 (s.getV 0)))

/-- CALL nnn (R122): pushes NPC, or raises StackOverflow with nothing written. -/
def execCall (nnn : Addr) (s : State) : Host.Outcome State Fault Refusal :=
  .next (s.orRaise ((s.push s.pc).map fun t => t.setPc nnn))

/-- RET (R123): continues at the popped address, or raises StackUnderflow. -/
def execRet (s : State) : Host.Outcome State Fault Refusal :=
  .next (s.orRaise (s.pop.map fun r => r.2.setPc r.1))

end Sys2Proof.Machine
end

