-- ==== Sys2Proof/Machine/Drawing.lean ====
section
/-! DEFINITION. 46_display.md part 1: DRW, CLS, LOW, HIGH, SCD, SCR, SCL, EXIT. -/

namespace Sys2Proof.Machine

/-- Draws a sprite's 1 bits at the port and writes VF last: 1 when any pixel was set before, else 0 (R180). -/
def State.drawPixels (s : State) (ps : List (Nat × Nat)) : State :=
  (s.togglePixels ps).2.setVF (s.togglePixels ps).1

/-- DRW in a state whose display has just reported the resolution `res` (R180): MemoryError when the sprite's bytes run past
0xFFF, before any pixel is touched. -/
def State.draw (s : State) (res : Resolution) (x y n : Nibble) : State :=
  s.orRaise ((s.loadRange s.i.toNat (spriteShape n res).total).map fun bytes =>
    s.drawPixels (spritePixels (spriteShape n res) res bytes (s.getV x).toNat (s.getV y).toNat))

/-- DRW Vx, Vy, n (R180): the resolution is read once, first. -/
def execDrw (x y n : Nibble) (s : State) : Host.Outcome State Fault Refusal :=
  .next (s.askResolution.2.draw s.askResolution.1 x y n)

/-- CLS (R181). -/
def execCls (s : State) : Host.Outcome State Fault Refusal :=
  .next (s.requestDisplay RefDisplay.clear .clear)

/-- LOW (R183): sent also when the mode is already Low. -/
def execLow (s : State) : Host.Outcome State Fault Refusal :=
  .next (s.requestDisplay (fun d => d.setMode .low) (.setMode .low))

/-- HIGH (R184). -/
def execHigh (s : State) : Host.Outcome State Fault Refusal :=
  .next (s.requestDisplay (fun d => d.setMode .high) (.setMode .high))

/-- SCD n (R185): `n = 0` is legal. -/
def execScd (n : Nibble) (s : State) : Host.Outcome State Fault Refusal :=
  .next (s.requestDisplay (fun d => d.scrollDown n) (.scrollDown n))

/-- SCR (R186). -/
def execScr (s : State) : Host.Outcome State Fault Refusal :=
  .next (s.requestDisplay RefDisplay.scrollRight .scrollRight)

/-- SCL (R187). -/
def execScl (s : State) : Host.Outcome State Fault Refusal :=
  .next (s.requestDisplay RefDisplay.scrollLeft .scrollLeft)

/-- EXIT (R188): a halt cause, not an error. -/
def execExit (s : State) : Host.Outcome State Fault Refusal :=
  .next ((s.setEs (.halted .exit)).emit .exitRequested)

end Sys2Proof.Machine
end

