-- ==== Sys2Proof/Machine/Immediate.lean ====
section
/-! DEFINITION. 43_immediate.md: LD Vx,kk and ADD Vx,kk. Neither writes a flag. -/

namespace Sys2Proof.Machine

/-- LD Vx, kk (R155). -/
def execLdImm (x : Nibble) (kk : Byte) (s : State) : Host.Outcome State Fault Refusal :=
  .next (s.setV x kk)

/-- ADD Vx, kk (R156): mod 256, VF not written unless it is the destination. -/
def execAddImm (x : Nibble) (kk : Byte) (s : State) : Host.Outcome State Fault Refusal :=
  .next (s.setV x (s.getV x + kk))

end Sys2Proof.Machine
end

