-- ==== Sys2Proof/Machine/KeyWait.lean ====
section
/-! DEFINITION. 47_key_wait.md: LD Vx,K. Its completion is the host operation `deliver_key` (Machine/HostOps.lean, R201). -/

namespace Sys2Proof.Machine

/-- LD Vx, K (R200): `ES <- AwaitingKey(x)` and nothing else. -/
def execLdVxK (x : Nibble) (s : State) : Host.Outcome State Fault Refusal :=
  .next (s.setEs (.awaitingKey x))

end Sys2Proof.Machine
end

