-- ==== Sys2Proof/Machine/Skips.lean ====
section
/-! DEFINITION. 41_skips.md: SE, SNE, SKP, SKNP. -/

namespace Sys2Proof.Machine

/-- The common skip step (R129): one more advance by 2 when the condition holds. -/
def State.skipIf (s : State) (cond : Bool) : State := if cond then s.advance else s

/-- SE Vx, kk (R130). -/
def execSeImm (x : Nibble) (kk : Byte) (s : State) : Host.Outcome State Fault Refusal :=
  .next (s.skipIf (s.getV x == kk))

/-- SNE Vx, kk (R131). -/
def execSneImm (x : Nibble) (kk : Byte) (s : State) : Host.Outcome State Fault Refusal :=
  .next (s.skipIf (s.getV x != kk))

/-- SE Vx, Vy (R132). -/
def execSeReg (x y : Nibble) (s : State) : Host.Outcome State Fault Refusal :=
  .next (s.skipIf (s.getV x == s.getV y))

/-- SNE Vx, Vy (R133). -/
def execSneReg (x y : Nibble) (s : State) : Host.Outcome State Fault Refusal :=
  .next (s.skipIf (s.getV x != s.getV y))

/-- SKP Vx (R134): asks the keypad once about the key in the low nibble. -/
def execSkp (x : Nibble) (s : State) : Host.Outcome State Fault Refusal :=
  .next ((s.askKey (lowNibble (s.getV x))).2.skipIf (s.askKey (lowNibble (s.getV x))).1)

/-- SKNP Vx (R135). -/
def execSknp (x : Nibble) (s : State) : Host.Outcome State Fault Refusal :=
  .next ((s.askKey (lowNibble (s.getV x))).2.skipIf (!(s.askKey (lowNibble (s.getV x))).1))

end Sys2Proof.Machine
end

