-- ==== Sys2Proof/Machine/TimersRandom.lean ====
section
/-! DEFINITION. 45_timers_random.md: LD Vx,DT; LD DT,Vx; LD ST,Vx; RND. -/

namespace Sys2Proof.Machine

/-- LD Vx, DT (R170). -/
def execLdVxDt (x : Nibble) (s : State) : Host.Outcome State Fault Refusal :=
  .next (s.setV x s.dt)

/-- LD DT, Vx (R171). -/
def execLdDtVx (x : Nibble) (s : State) : Host.Outcome State Fault Refusal :=
  .next (s.setDt (s.getV x))

/-- LD ST, Vx (R172). -/
def execLdStVx (x : Nibble) (s : State) : Host.Outcome State Fault Refusal :=
  .next (s.setSt (s.getV x))

/-- RND Vx, kk (R173): one byte of the random source, masked. -/
def execRnd (x : Nibble) (kk : Byte) (s : State) : Host.Outcome State Fault Refusal :=
  .next (s.askRandom.2.setV x (s.askRandom.1 &&& kk))

end Sys2Proof.Machine
end

