-- ==== Sys2Proof/Machine/Step.lean ====
section
/-! DEFINITION. `step()` (60_exceptions.md R210, R211) and where the next instruction's word stands. -/

namespace Sys2Proof.Machine

/-- `ReadyStep()` (R211) from a state whose output has been cleared: fetch, advance, decode, execute; the first phase that
raises ends the step. -/
def readyStep (s : State) : Host.Outcome State Fault Refusal :=
  match s.fetch with
  | .error e => .next (s.raise e)
  | .ok w =>
    match decode w with
    | .error _ => .next (s.advance.raise (.decodeError w))
    | .ok i => exec i s.advance

/-- `step()` by engine state (R210): one instruction in Ready, nothing in AwaitingKey (R230) or Halted (R222) beside an empty
answer (log 14). -/
def step (s : State) : Host.Outcome State Fault Refusal :=
  match s.es with
  | .ready => readyStep s.beginStep
  | .awaitingKey _ => .next s.beginStep
  | .halted _ => .next s.beginStep

/-- The state whose very next step fetches and runs the word that spec/opcode_table.json's bit numbering gives (log 11). -/
def State.withFetchWord (s : State) (nbits w : Nat) : State := s.placeWord (tableWord nbits w)

end Sys2Proof.Machine
end

