-- ==== Sys2Proof/Machine/HostOps.lean ====
section
/-! DEFINITION. The host's operations beside `step()` (10_state.md R43), the outputs it observes, and what it may plug into the
ports. Each is atomic; the host calls them in any order (log 7). -/

namespace Sys2Proof.Machine

/-- A timer at 0 stays at 0 (60_exceptions.md R226). -/
def timerTick (b : Byte) : Byte := if b.toNat > 0 then b - 1 else b

/-- `tick_timers()` (R226, R227): acts the same in all three engine states and touches only `DT` and `ST`; the boot window is over
(20_memory.md R70). -/
def State.tickTimers (s : State) : State :=
  { s with dt := timerTick s.dt, st := timerTick s.st, booting := false }

/-- `deliver_key(k)` (R228, R229; 47_key_wait.md R201): completes a key wait; in any other engine state it is dropped. -/
def State.deliverKey (s : State) (k : Nibble) : State :=
  match s.es with
  | .awaitingKey x => { (s.setV x (zext8 k)).setEs .ready with booting := false }
  | .ready => { s with booting := false }
  | .halted _ => { s with booting := false }

/-- `load(origin, bytes)` (20_memory.md R69, R70): copies the image, or writes nothing and halts with MemoryError(4096); outside
the boot window it has no meaning. -/
def State.load (s : State) (origin : Addr) (bytes : List Byte) : Host.Outcome State Fault Refusal :=
  if s.booting then
    .next (State.orRaise s ((s.storeRange origin.toNat bytes).map fun t => { t with out := { effects := [], report := none } }))
  else .refused .loadAfterBoot

/-- What the host's reset of the collaborators does (70_reset_and_hazards.md R241): a plugged-in reference display returns to Low
mode, all clear; answers laid down and the count of free ones stay (log 13). -/
def Ports.reset (p : Ports) : Ports :=
  { p with display := p.display.request fun _ => RefDisplay.blank }

/-- `reset()` (R240, R241), in any engine state. -/
def State.resetOp (s : State) : State := { State.resetWith s.params with ports := s.ports.reset }

/-- The five operations (R43). -/
inductive HostOp where
  | reset
  | load (origin : Addr) (bytes : List Byte)
  | step
  | tickTimers
  | deliverKey (k : Nibble)
  deriving DecidableEq, Repr

/-- One host operation, whichever the host calls next. -/
def hostOp (o : HostOp) (s : State) : Host.Outcome State Fault Refusal :=
  match o with
  | .reset => .next s.resetOp
  | .load origin bytes => s.load origin bytes
  | .step => step s
  | .tickTimers => .next s.tickTimers
  | .deliverKey k => .next (s.deliverKey k)

/-- A host's schedule of operations, in order, stopping at the first that has no meaning. -/
def hostRun : List HostOp → State → Host.Outcome State Fault Refusal
  | [], s => .next s
  | o :: os, s =>
    match hostOp o s with
    | .next t => hostRun os t
    | .fault r => .fault r
    | .refused r => .refused r

/-! ## What the host observes -/

/-- The audio port (10_state.md R49): the value of `ST`. -/
def State.audioPort (s : State) : Byte := s.st

/-- Sound is on exactly while `ST > 0` (R31). -/
def State.soundOn (s : State) : Bool := s.st.toNat > 0

/-- The advisory status number (60_exceptions.md R215); nothing in the machine reads it. -/
def EngineState.statusCode : EngineState → Nat
  | .ready => 0
  | .awaitingKey _ => 0
  | .halted .exit => 1
  | .halted (.error (.decodeError _)) => 2
  | .halted (.error (.memoryError _)) => 3
  | .halted (.error .stackOverflow) => 4
  | .halted (.error .stackUnderflow) => 5

/-! ## What may be plugged in -/

/-- The machine with the blank reference display at its display port (46_display.md R192). -/
def State.withReferenceDisplay (s : State) : State :=
  { s with ports := { s.ports with display := .reference RefDisplay.blank } }

/-- The machine with these answers laid down for the next queries of `RAND`. -/
def State.withRandom (s : State) (bytes : List Byte) : State :=
  { s with ports := { s.ports with random := bytes } }

/-- The machine with these samples of the key levels laid down for the next queries of `KEY`. -/
def State.withKeys (s : State) (samples : List (BitVec 16)) : State :=
  { s with ports := { s.ports with keypad := samples } }

end Sys2Proof.Machine
end

