-- ==== Sys2Proof/Safety.lean ====
section
/-! DEFINITION. What counts as a safe run, and the words in which claims say what an operation leaves unchanged. -/

namespace Sys2Proof.Machine

/-! ## Frames -/

/-- Every byte of memory reads as before. -/
def SameMemory (s t : State) : Prop := ∀ a, t.byteAt a = s.byteAt a

/-- Every byte of memory outside the `n` bytes from `a` up reads as before. -/
def SameMemoryOutside (a n : Nat) (s t : State) : Prop := ∀ b, b < a ∨ a + n ≤ b → t.byteAt b = s.byteAt b

/-- Every general register not listed reads as before. -/
def SameRegistersBut (ds : List Nibble) (s t : State) : Prop := ∀ r, r ∉ ds → t.getV r = s.getV r

/-- Nothing but the program counter differs. -/
def PcOnly (s t : State) : Prop := t = { s with pc := t.pc } ∧ SameMemory s t

/-- Nothing but general registers differs. -/
def RegistersOnly (s t : State) : Prop := t = { s with v := t.v } ∧ SameMemory s t

/-- Nothing but the engine state and what the step returns differs. -/
def EngineOnly (s t : State) : Prop := t = { s with es := t.es, out := t.out } ∧ SameMemory s t

/-- Nothing but the memory differs, and of it nothing but the `n` bytes from `a` up. -/
def MemoryOnly (a n : Nat) (s t : State) : Prop := t = { s with mem := t.mem } ∧ SameMemoryOutside a n s t

/-- What taking the error `e` leaves of `s` (60_exceptions.md R216, R218): only `ES` and the answer of the step change. -/
def ErrorTaken (e : EngineError) (s t : State) : Prop :=
  t.es = .halted (.error e) ∧ t.out = { effects := [], report := some e } ∧ EngineOnly s t

/-! ## The invariant -/

/-- The reference display's pixels outside the screen of its mode are 0 (46_display.md R192); nothing is asked of another
display. -/
def Display.confined : Display → Prop
  | .external => True
  | .reference d => ∀ px py, onScreen d.mode px py = false → Frame.pixel d.fb px py = false

/-- The invariant of the machine. -/
structure State.Inv (s : State) : Prop where
  /-- The parameters are ones that 00_scope.md R6 admits. -/
  params : s.params.wellFormed = true
  /-- The memory is in canonical form, inside its 4096 bytes. -/
  memory : Memory.wf s.params s.mem = true
  /-- A plugged-in reference display keeps to its screen. -/
  display : s.ports.display.confined
  /-- A reported error is the cause of the halt, and comes with no effect (60_exceptions.md R214, R216). -/
  report : ∀ e, s.out.report = some e → s.es = .halted (.error e) ∧ s.out.effects = []
  /-- In the boot window the engine is Ready, or halted by a load that failed (10_state.md R36, 20_memory.md R70). -/
  boot : s.booting = true → s.es = .ready ∨ s.es = .halted (.error (.memoryError 4096))

/-! ## The spec's tables about all instructions -/

/-- The condition of a skip instruction (41_skips.md R130 to R135); none for an instruction that is no skip. -/
def skipCondition (s : State) : Instr → Option Bool
  | .seImm x kk => some (s.getV x = kk)
  | .sneImm x kk => some (s.getV x ≠ kk)
  | .seReg x y => some (s.getV x = s.getV y)
  | .sneReg x y => some (s.getV x ≠ s.getV y)
  | .skp x => some (s.askKey (lowNibble (s.getV x))).1
  | .sknp x => some (!(s.askKey (lowNibble (s.getV x))).1)
  | .scd _ | .cls | .ret | .scr | .scl | .exit | .low | .high | .jp _ | .call _ | .ldImm _ _ | .addImm _ _
  | .ldReg _ _ | .orReg _ _ | .andReg _ _ | .xorReg _ _ | .addReg _ _ | .subReg _ _ | .shr _ | .subnReg _ _
  | .shl _ | .ldI _ | .jpV0 _ | .rnd _ _ | .drw _ _ _ | .ldVxDt _ | .ldVxK _ | .ldDtVx _ | .ldStVx _ | .addI _
  | .ldF _ | .ldB _ | .ldMemVx _ | .ldVxMem _ => none

/-- How many bytes a sprite has: `n`, or 32 for `n = 0` in High mode, or none for `n = 0` in Low mode (46_display.md R180). -/
def spriteBytes (n : Nibble) (res : Resolution) : Nat :=
  if n ≠ 0 then n.toNat else match res with
    | .high => 32
    | .low => 0

/-- The error an instruction's execute phase raises, by the table of 60_exceptions.md R213. -/
def executeError (s : State) : Instr → Option EngineError
  | .call _ => if s.sp.val = 16 then some .stackOverflow else none
  | .ret => if s.sp.val = 0 then some .stackUnderflow else none
  | .ldB _ => if s.i.toNat + 2 > 4095 then some (.memoryError 0x1000) else none
  | .ldMemVx x => if s.i.toNat + x.toNat > 4095 then some (.memoryError 0x1000) else none
  | .ldVxMem x => if s.i.toNat + x.toNat > 4095 then some (.memoryError 0x1000) else none
  | .drw _ _ n =>
    if spriteBytes n s.askResolution.1 > 0 ∧ s.i.toNat + spriteBytes n s.askResolution.1 - 1 > 4095 then
      some (.memoryError 0x1000)
    else none
  | .scd _ | .cls | .scr | .scl | .exit | .low | .high | .jp _ | .seImm _ _ | .sneImm _ _ | .seReg _ _ | .ldImm _ _
  | .addImm _ _ | .ldReg _ _ | .orReg _ _ | .andReg _ _ | .xorReg _ _ | .addReg _ _ | .subReg _ _ | .shr _
  | .subnReg _ _ | .shl _ | .sneReg _ _ | .ldI _ | .jpV0 _ | .rnd _ _ | .skp _ | .sknp _ | .ldVxDt _ | .ldVxK _
  | .ldDtVx _ | .ldStVx _ | .addI _ | .ldF _ => none

/-- The general registers an instruction may write, by 10_state.md R22: its destination, a range, the flag `V[15]`. -/
def writtenRegisters : Instr → List Nibble
  | .ldImm x _ | .addImm x _ | .ldReg x _ | .orReg x _ | .andReg x _ | .xorReg x _ | .rnd x _ | .ldVxDt x => [x]
  | .addReg x _ | .subReg x _ | .subnReg x _ | .shr x | .shl x => [x, 15]
  | .drw _ _ _ => [15]
  | .ldVxMem x => (List.range (x.toNat + 1)).map (BitVec.ofNat 4)
  | .scd _ | .cls | .ret | .scr | .scl | .exit | .low | .high | .jp _ | .call _ | .seImm _ _ | .sneImm _ _ | .seReg _ _
  | .sneReg _ _ | .ldI _ | .jpV0 _ | .skp _ | .sknp _ | .ldVxK _ | .ldDtVx _ | .ldStVx _ | .addI _ | .ldF _ | .ldB _
  | .ldMemVx _ => []

/-- Whether an instruction consumes an input: `KEY`, `RAND`, `RES` or `TOGGLE` (60_exceptions.md R211). -/
def asksPorts : Instr → Bool
  | .skp _ | .sknp _ | .rnd _ _ | .drw _ _ _ => true
  | .scd _ | .cls | .ret | .scr | .scl | .exit | .low | .high | .jp _ | .call _ | .seImm _ _ | .sneImm _ _ | .seReg _ _
  | .ldImm _ _ | .addImm _ _ | .ldReg _ _ | .orReg _ _ | .andReg _ _ | .xorReg _ _ | .addReg _ _ | .subReg _ _ | .shr _
  | .subnReg _ _ | .shl _ | .sneReg _ _ | .ldI _ | .jpV0 _ | .ldVxDt _ | .ldVxK _ | .ldDtVx _ | .ldStVx _ | .addI _
  | .ldF _ | .ldB _ | .ldMemVx _ | .ldVxMem _ => false

/-- `PC` after an instruction that raised nothing, from `NPC` (10_state.md R28). -/
def pcAfter (s : State) : Instr → Nat
  | .jp nnn | .call nnn => nnn.toNat
  | .jpV0 nnn => (nnn.toNat + (s.getV 0).toNat) % 4096
  | .ret => (s.stack[s.sp.val - 1]'(by omega)).toNat
  | .seImm x kk => if s.getV x = kk then (s.pc.toNat + 2) % 4096 else s.pc.toNat
  | .sneImm x kk => if s.getV x = kk then s.pc.toNat else (s.pc.toNat + 2) % 4096
  | .seReg x y => if s.getV x = s.getV y then (s.pc.toNat + 2) % 4096 else s.pc.toNat
  | .sneReg x y => if s.getV x = s.getV y then s.pc.toNat else (s.pc.toNat + 2) % 4096
  | .skp x => if (s.askKey (lowNibble (s.getV x))).1 then (s.pc.toNat + 2) % 4096 else s.pc.toNat
  | .sknp x => if (s.askKey (lowNibble (s.getV x))).1 then s.pc.toNat else (s.pc.toNat + 2) % 4096
  | .scd _ | .cls | .scr | .scl | .exit | .low | .high | .ldImm _ _ | .addImm _ _ | .ldReg _ _ | .orReg _ _ | .andReg _ _
  | .xorReg _ _ | .addReg _ _ | .subReg _ _ | .shr _ | .subnReg _ _ | .shl _ | .ldI _ | .rnd _ _ | .drw _ _ _ | .ldVxDt _
  | .ldVxK _ | .ldDtVx _ | .ldStVx _ | .addI _ | .ldF _ | .ldB _ | .ldMemVx _ | .ldVxMem _ => s.pc.toNat

/-- The position that row `r`, column `c` of a sprite at `(x, y)` falls on, wrapped on both axes (46_display.md R180). -/
def spritePosition (res : Resolution) (x y r c : Nat) : Nat × Nat :=
  ((x + c) % screenWidth res, (y + r) % screenHeight res)

/-- Whether the sprite at `I` has a 1 bit at row `r`, column `c`, read from memory (R180). -/
def memorySpriteBit (s : State) (sh : SpriteShape) (r c : Nat) : Bool :=
  r < sh.rows && c < sh.cols && (s.byteAt (s.i.toNat + r * sh.bytesPerRow + c / 8)).getLsbD (7 - c % 8)

/-- Whether the sprite drawn at `(V[x], V[y])` covers a pixel with a 1 bit. -/
def spriteCovers (s : State) (sh : SpriteShape) (res : Resolution) (x y : Nibble) (px py : Nat) : Prop :=
  ∃ r c, memorySpriteBit s sh r c = true ∧ (px, py) = spritePosition res (s.getV x).toNat (s.getV y).toNat r c

/-! ## The end of a run (60_exceptions.md R223) -/

/-- The run is over. -/
def State.ended (s : State) : Bool :=
  match s.es with
  | .halted _ => true
  | .ready => false
  | .awaitingKey _ => false

/-- The run ended well: by EXIT. -/
def State.endedWell (s : State) : Bool := s.es = .halted .exit

/-- A safe state: the run has not ended in one of the four errors. -/
def State.safe (s : State) : Bool := !s.ended || s.endedWell

/-! ## Runs that claims speak of -/

/-- Runs `execute(CALL nnn)` once for each pair, with `PC` (the address after that CALL) at the pair's first address (40_control_flow.md
R124: nested calls). -/
def runNestedCalls : List (Addr × Addr) → State → Host.Outcome State Fault Refusal
  | [], s => .next s
  | c :: cs, s =>
    match exec (.call c.2) { s with pc := c.1 } with
    | .next t => runNestedCalls cs t
    | .fault r => .fault r
    | .refused r => .refused r

/-- Runs `execute(RET)` `n` times, each wherever the last one returned to (its PC advanced by the step as R211 says). -/
def runReturns : Nat → State → Host.Outcome State Fault Refusal
  | 0, s => .next s
  | n + 1, s =>
    match exec .ret s with
    | .next t => runReturns n t
    | .fault r => .fault r
    | .refused r => .refused r

end Sys2Proof.Machine
end

