-- ==== Sys2Proof/Certificates/Slice0/Obligations.lean ====
section
/-! DEFINITION. The statements for the provers. `exec i s` is the execute phase: `s.pc` is then `NPC`, the address after the
instruction (00_scope.md R15). A clause about `decode` is the instruction's encoding as its rule gives it. `Dn` is a decision of
92_eei_decisions.md, a choice of the spec and not of its source (log 9); a statement that rests on one says so. -/

open Sys2Proof Sys2Proof.Machine

/-! ## Control flow (40_control_flow.md) -/

/-- R120: JP sets PC to its operand and changes nothing else. -/
def Obligations.JumpSetsOnlyPc : Prop :=
  ∀ (s : State) (nnn : Addr),
    decode (0x1#4 ++ nnn) = .ok (.jp nnn) ∧ ∃ t, exec (.jp nnn) s = .next t ∧ t.pc = nnn ∧ PcOnly s t

/-- Derived from R121: JP V0 sets PC to the sum of its operand and `V[0]`, and changes nothing else. That the sum is reduced mod
4096 is the spec's decision D10. -/
def Obligations.IndexedJumpAddsV0 : Prop :=
  ∀ (s : State) (nnn : Addr),
    decode (0xB#4 ++ nnn) = .ok (.jpV0 nnn) ∧
    ∃ t, exec (.jpV0 nnn) s = .next t ∧ t.pc.toNat = (nnn.toNat + (s.getV 0).toNat) % 4096 ∧ PcOnly s t

/-- R122: CALL pushes NPC and jumps; with sixteen entries on the stack it raises StackOverflow and writes nothing. -/
def Obligations.CallPushesOrOverflows : Prop :=
  ∀ (s : State) (nnn : Addr),
    decode (0x2#4 ++ nnn) = .ok (.call nnn) ∧
    (s.sp.val < 16 →
      ∃ t, exec (.call nnn) s = .next t ∧ t.pc = nnn ∧ t.sp.val = s.sp.val + 1 ∧
        (∀ k (h : k < 16), t.stack[k] = if k = s.sp.val then s.pc else s.stack[k]) ∧
        t = { s with pc := t.pc, sp := t.sp, stack := t.stack } ∧ SameMemory s t) ∧
    (s.sp.val = 16 → ∃ t, exec (.call nnn) s = .next t ∧ ErrorTaken .stackOverflow s t)

/-- R123: RET continues at the popped entry, which keeps its value; on an empty stack it raises StackUnderflow. -/
def Obligations.ReturnPopsOrUnderflows : Prop :=
  decode 0x00EE = .ok .ret ∧
  ∀ s : State,
    (∀ h : 0 < s.sp.val,
      ∃ t, exec .ret s = .next t ∧ t.sp.val = s.sp.val - 1 ∧ t.pc = s.stack[s.sp.val - 1]'(by omega) ∧
        t = { s with pc := t.pc, sp := t.sp } ∧ SameMemory s t) ∧
    (s.sp.val = 0 → ∃ t, exec .ret s = .next t ∧ ErrorTaken .stackUnderflow s t)

/-- Derived from R122 and R123, as R124 is: N nested calls, then N returns: PC is the address after the first CALL, SP its
original depth, and the entries that were live keep their values; for N from 1 to 16 - SP. -/
def Obligations.NestedCallsAndReturnsBalance : Prop :=
  ∀ (s : State) (first : Addr × Addr) (inner : List (Addr × Addr)),
    s.sp.val + (first :: inner).length ≤ 16 →
    ∃ t u, runNestedCalls (first :: inner) s = .next t ∧ t.sp.val = s.sp.val + (first :: inner).length ∧
      runReturns (first :: inner).length t = .next u ∧ u.pc = first.1 ∧ u.sp = s.sp ∧
      (∀ k (h : k < 16), k < s.sp.val → u.stack[k] = s.stack[k]) ∧
      u = { s with pc := u.pc, stack := u.stack } ∧ SameMemory s u

/-! ## Skips (41_skips.md) -/

/-- R130 to R133: the four register skips add 2 to PC (mod 4096) exactly when their condition holds, and change nothing else. -/
def Obligations.RegisterSkips : Prop :=
  ∀ (s : State) (x y : Nibble) (kk : Byte),
    decode (0x3#4 ++ x ++ kk) = .ok (.seImm x kk) ∧ decode (0x4#4 ++ x ++ kk) = .ok (.sneImm x kk) ∧
    decode (0x5#4 ++ x ++ y ++ 0x0#4) = .ok (.seReg x y) ∧ decode (0x9#4 ++ x ++ y ++ 0x0#4) = .ok (.sneReg x y) ∧
    (∃ t, exec (.seImm x kk) s = .next t ∧ PcOnly s t ∧
      t.pc.toNat = if s.getV x = kk then (s.pc.toNat + 2) % 4096 else s.pc.toNat) ∧
    (∃ t, exec (.sneImm x kk) s = .next t ∧ PcOnly s t ∧
      t.pc.toNat = if s.getV x = kk then s.pc.toNat else (s.pc.toNat + 2) % 4096) ∧
    (∃ t, exec (.seReg x y) s = .next t ∧ PcOnly s t ∧
      t.pc.toNat = if s.getV x = s.getV y then (s.pc.toNat + 2) % 4096 else s.pc.toNat) ∧
    (∃ t, exec (.sneReg x y) s = .next t ∧ PcOnly s t ∧
      t.pc.toNat = if s.getV x = s.getV y then s.pc.toNat else (s.pc.toNat + 2) % 4096)

/-- Derived from R134, R135: SKP and SKNP ask the keypad once about a key; that it is the key in the low nibble of `V[x]` is the
spec's decision D17. A sample laid down answers with that key's level and is used up (the model's choice, log 2); otherwise the
answer may be either (log 1). They change nothing but PC and the input that was consumed. -/
def Obligations.KeySkips : Prop :=
  ∀ (s : State) (x : Nibble),
    decode (0xE#4 ++ x ++ 0x9E#8) = .ok (.skp x) ∧ decode (0xE#4 ++ x ++ 0xA1#8) = .ok (.sknp x) ∧
    ∃ (down : Bool) (ports : Ports) (t u : State),
      exec (.skp x) s = .next t ∧ exec (.sknp x) s = .next u ∧
      t = { s with pc := t.pc, ports := ports } ∧ u = { s with pc := u.pc, ports := ports } ∧
      SameMemory s t ∧ SameMemory s u ∧
      t.pc.toNat = (if down then (s.pc.toNat + 2) % 4096 else s.pc.toNat) ∧
      u.pc.toNat = (if down then s.pc.toNat else (s.pc.toNat + 2) % 4096) ∧
      (∀ sample rest, s.ports.keypad = sample :: rest →
        down = sample.getLsbD ((s.getV x).toNat % 16) ∧ ports = { s.ports with keypad := rest }) ∧
      (s.ports.keypad = [] → ports = { s.ports with draws := ports.draws })

/-- Derived from R129: over a whole step, a satisfied skip condition advances PC by 4 from its pre-fetch value, an unsatisfied
one by 2; the skipped word takes no part. A register skip changes nothing else; SKP and SKNP also use up the one answer of the
keypad about the key in the low nibble of `V[x]` (the spec's decision D17, log 9). The step clears the answer of the one before
(log 5) and closes the model's boot window (log 6). -/
def Obligations.SkipDeltaFromFetch : Prop :=
  ∀ (s : State) (w : OpCode) (i : Instr) (cond : Bool),
    s.es = .ready → s.fetch = .ok w → decode w = .ok i → skipCondition s i = some cond →
    ∃ t, step s = .next t ∧ t.pc.toNat = (s.pc.toNat + if cond then 4 else 2) % 4096 ∧
      t = { s.beginStep with pc := t.pc, ports := t.ports } ∧ SameMemory s t ∧
      (asksPorts i = false → t.ports = s.ports) ∧
      (∀ x, i = .skp x ∨ i = .sknp x → t.ports = (s.askKey (lowNibble (s.getV x))).2.ports)

/-! ## Register arithmetic and logic (42_alu.md), immediates (43_immediate.md) -/

/-- Derived from R140 to R143: copy, OR, AND, XOR write the destination and nothing else. That they write no flag is the spec's
decision D7; that 8xy0 is an instruction is D1. -/
def Obligations.CopyAndLogic : Prop :=
  ∀ (s : State) (x y : Nibble),
    decode (0x8#4 ++ x ++ y ++ 0x0#4) = .ok (.ldReg x y) ∧ decode (0x8#4 ++ x ++ y ++ 0x1#4) = .ok (.orReg x y) ∧
    decode (0x8#4 ++ x ++ y ++ 0x2#4) = .ok (.andReg x y) ∧ decode (0x8#4 ++ x ++ y ++ 0x3#4) = .ok (.xorReg x y) ∧
    (∃ t, exec (.ldReg x y) s = .next t ∧ t.getV x = s.getV y ∧ SameRegistersBut [x] s t ∧ RegistersOnly s t) ∧
    (∃ t, exec (.orReg x y) s = .next t ∧ t.getV x = s.getV x ||| s.getV y ∧ SameRegistersBut [x] s t ∧
      RegistersOnly s t) ∧
    (∃ t, exec (.andReg x y) s = .next t ∧ t.getV x = s.getV x &&& s.getV y ∧ SameRegistersBut [x] s t ∧
      RegistersOnly s t) ∧
    (∃ t, exec (.xorReg x y) s = .next t ∧ t.getV x = s.getV x ^^^ s.getV y ∧ SameRegistersBut [x] s t ∧
      RegistersOnly s t)

/-- R144: ADD Vx,Vy. With `x = 15` the flag is what stays. -/
def Obligations.AddSetsSumAndCarry : Prop :=
  ∀ (s : State) (x y : Nibble),
    decode (0x8#4 ++ x ++ y ++ 0x4#4) = .ok (.addReg x y) ∧
    ∃ t, exec (.addReg x y) s = .next t ∧
      (x ≠ 15 → (t.getV x).toNat = ((s.getV x).toNat + (s.getV y).toNat) % 256) ∧
      (t.getV 15).toNat = (if (s.getV x).toNat + (s.getV y).toNat > 255 then 1 else 0) ∧
      SameRegistersBut [x, 15] s t ∧ RegistersOnly s t

/-- R145, R147: SUB and SUBN. The flag is 1 when no borrow occurred. -/
def Obligations.SubtractionsSetDifferenceAndNoBorrow : Prop :=
  ∀ (s : State) (x y : Nibble),
    decode (0x8#4 ++ x ++ y ++ 0x5#4) = .ok (.subReg x y) ∧ decode (0x8#4 ++ x ++ y ++ 0x7#4) = .ok (.subnReg x y) ∧
    (∃ t, exec (.subReg x y) s = .next t ∧
      (x ≠ 15 → (t.getV x).toNat = ((s.getV x).toNat + 256 - (s.getV y).toNat) % 256) ∧
      (t.getV 15).toNat = (if (s.getV x).toNat ≥ (s.getV y).toNat then 1 else 0) ∧
      SameRegistersBut [x, 15] s t ∧ RegistersOnly s t) ∧
    (∃ t, exec (.subnReg x y) s = .next t ∧
      (x ≠ 15 → (t.getV x).toNat = ((s.getV y).toNat + 256 - (s.getV x).toNat) % 256) ∧
      (t.getV 15).toNat = (if (s.getV y).toNat ≥ (s.getV x).toNat then 1 else 0) ∧
      SameRegistersBut [x, 15] s t ∧ RegistersOnly s t)

/-- Derived from R146, R148: SHR and SHL shift `V[x]` by one and leave the bit shifted out in VF. That they shift in place and
the `y` of the word plays no part is the spec's decision D4. -/
def Obligations.ShiftsInPlace : Prop :=
  ∀ (s : State) (x y : Nibble),
    decode (0x8#4 ++ x ++ y ++ 0x6#4) = .ok (.shr x) ∧ decode (0x8#4 ++ x ++ y ++ 0xE#4) = .ok (.shl x) ∧
    (∃ t, exec (.shr x) s = .next t ∧ (x ≠ 15 → (t.getV x).toNat = (s.getV x).toNat / 2) ∧
      (t.getV 15).toNat = (s.getV x).toNat % 2 ∧ SameRegistersBut [x, 15] s t ∧ RegistersOnly s t) ∧
    (∃ t, exec (.shl x) s = .next t ∧ (x ≠ 15 → (t.getV x).toNat = 2 * (s.getV x).toNat % 256) ∧
      (t.getV 15).toNat = (s.getV x).toNat / 128 ∧ SameRegistersBut [x, 15] s t ∧ RegistersOnly s t)

/-- R155: LD Vx,kk writes the destination and nothing else. -/
def Obligations.LoadImmediate : Prop :=
  ∀ (s : State) (x : Nibble) (kk : Byte),
    decode (0x6#4 ++ x ++ kk) = .ok (.ldImm x kk) ∧
    ∃ t, exec (.ldImm x kk) s = .next t ∧ t.getV x = kk ∧ SameRegistersBut [x] s t ∧ RegistersOnly s t

/-- Derived from R156: ADD Vx,kk adds mod 256. That it writes no flag is the spec's decision D7. -/
def Obligations.AddImmediate : Prop :=
  ∀ (s : State) (x : Nibble) (kk : Byte),
    decode (0x7#4 ++ x ++ kk) = .ok (.addImm x kk) ∧
    ∃ t, exec (.addImm x kk) s = .next t ∧ (t.getV x).toNat = ((s.getV x).toNat + kk.toNat) % 256 ∧
      SameRegistersBut [x] s t ∧ RegistersOnly s t

/-! ## Address register and memory (44_address_memory.md) -/

/-- R160: LD I writes `I` and nothing else. -/
def Obligations.LoadAddressRegister : Prop :=
  ∀ (s : State) (nnn : Addr),
    decode (0xA#4 ++ nnn) = .ok (.ldI nnn) ∧
    ∃ t, exec (.ldI nnn) s = .next t ∧ t.i = nnn ∧ t = { s with i := t.i } ∧ SameMemory s t

/-- Derived from R161, R162: ADD I adds mod 4096, LD F loads the address of a font glyph; only `I` changes. That ADD I writes no
flag is the spec's decision D7; the 5 bytes of a glyph are D15 and the low nibble as the digit is D16. -/
def Obligations.AddressRegisterArithmetic : Prop :=
  ∀ (s : State) (x : Nibble),
    decode (0xF#4 ++ x ++ 0x1E#8) = .ok (.addI x) ∧ decode (0xF#4 ++ x ++ 0x29#8) = .ok (.ldF x) ∧
    (∃ t, exec (.addI x) s = .next t ∧ t.i.toNat = (s.i.toNat + (s.getV x).toNat) % 4096 ∧ t = { s with i := t.i } ∧
      SameMemory s t) ∧
    (∃ t, exec (.ldF x) s = .next t ∧ t = { s with i := t.i } ∧ SameMemory s t ∧
      (s.params.wellFormed = true → t.i.toNat = s.params.fontBase.toNat + 5 * ((s.getV x).toNat % 16)))

/-- R163: LD B stores the three decimal digits at `I`, or raises MemoryError(0x1000) and writes nothing. -/
def Obligations.BcdStore : Prop :=
  ∀ (s : State) (x : Nibble),
    decode (0xF#4 ++ x ++ 0x33#8) = .ok (.ldB x) ∧
    (s.i.toNat + 2 ≤ 4095 →
      ∃ t, exec (.ldB x) s = .next t ∧ (t.byteAt s.i.toNat).toNat = (s.getV x).toNat / 100 ∧
        (t.byteAt (s.i.toNat + 1)).toNat = (s.getV x).toNat / 10 % 10 ∧
        (t.byteAt (s.i.toNat + 2)).toNat = (s.getV x).toNat % 10 ∧ MemoryOnly s.i.toNat 3 s t) ∧
    (s.i.toNat + 2 > 4095 → ∃ t, exec (.ldB x) s = .next t ∧ ErrorTaken (.memoryError 0x1000) s t)

/-- Derived from R164: LD [I],Vx stores `V[0]` to `V[x]` from `I` up, or raises MemoryError(0x1000) and writes nothing. That `I`
stays as it is is the spec's decision D8. -/
def Obligations.BulkStore : Prop :=
  ∀ (s : State) (x : Nibble),
    decode (0xF#4 ++ x ++ 0x55#8) = .ok (.ldMemVx x) ∧
    (s.i.toNat + x.toNat ≤ 4095 →
      ∃ t, exec (.ldMemVx x) s = .next t ∧
        (∀ k : Nibble, k.toNat ≤ x.toNat → t.byteAt (s.i.toNat + k.toNat) = s.getV k) ∧
        MemoryOnly s.i.toNat (x.toNat + 1) s t) ∧
    (s.i.toNat + x.toNat > 4095 → ∃ t, exec (.ldMemVx x) s = .next t ∧ ErrorTaken (.memoryError 0x1000) s t)

/-- Derived from R165: LD Vx,[I] loads `V[0]` to `V[x]` from `I` up, or raises MemoryError(0x1000) and changes no register. That
`I` stays as it is is the spec's decision D8. -/
def Obligations.BulkLoad : Prop :=
  ∀ (s : State) (x : Nibble),
    decode (0xF#4 ++ x ++ 0x65#8) = .ok (.ldVxMem x) ∧
    (s.i.toNat + x.toNat ≤ 4095 →
      ∃ t, exec (.ldVxMem x) s = .next t ∧
        (∀ k : Nibble, t.getV k = if k.toNat ≤ x.toNat then s.byteAt (s.i.toNat + k.toNat) else s.getV k) ∧
        RegistersOnly s t) ∧
    (s.i.toNat + x.toNat > 4095 → ∃ t, exec (.ldVxMem x) s = .next t ∧ ErrorTaken (.memoryError 0x1000) s t)

/-! ## Timers and random (45_timers_random.md) -/

/-- R170 to R172: the three timer moves; each changes its destination and nothing else. -/
def Obligations.TimerMoves : Prop :=
  ∀ (s : State) (x : Nibble),
    decode (0xF#4 ++ x ++ 0x07#8) = .ok (.ldVxDt x) ∧ decode (0xF#4 ++ x ++ 0x15#8) = .ok (.ldDtVx x) ∧
    decode (0xF#4 ++ x ++ 0x18#8) = .ok (.ldStVx x) ∧
    (∃ t, exec (.ldVxDt x) s = .next t ∧ t.getV x = s.dt ∧ SameRegistersBut [x] s t ∧ RegistersOnly s t) ∧
    (∃ t, exec (.ldDtVx x) s = .next t ∧ t.dt = s.getV x ∧ t = { s with dt := t.dt } ∧ SameMemory s t) ∧
    (∃ t, exec (.ldStVx x) s = .next t ∧ t.st = s.getV x ∧ t = { s with st := t.st } ∧ SameMemory s t ∧
      (t.soundOn = true ↔ (s.getV x).toNat > 0))

/-- Derived from R173: RND stores a byte of the random source ANDed with the mask: every bit that is 0 in `kk` is 0 in the
result. That the byte is any byte is the spec's decision D24; that a byte laid down is the one used, and used up, is the model's
(log 2). -/
def Obligations.RandomIsMasked : Prop :=
  ∀ (s : State) (x : Nibble) (kk : Byte),
    decode (0xC#4 ++ x ++ kk) = .ok (.rnd x kk) ∧
    ∃ (r : Byte) (t : State), exec (.rnd x kk) s = .next t ∧ t.getV x = r &&& kk ∧ t.getV x &&& ~~~kk = 0 ∧
      SameRegistersBut [x] s t ∧ t = { s with v := t.v, ports := t.ports } ∧ SameMemory s t ∧
      (∀ b rest, s.ports.random = b :: rest → r = b ∧ t.ports = { s.ports with random := rest }) ∧
      (s.ports.random = [] → t.ports = { s.ports with draws := t.ports.draws })

/-! ## Display (46_display.md) -/

/-- R181 to R184, R186, R187: CLS, LOW, HIGH, SCR and SCL call one operation of the display port, append its effect, and change
nothing of the core, in either display mode. -/
def Obligations.DisplayControlEmits : Prop :=
  ∀ s : State,
    decode 0x00E0 = .ok .cls ∧ decode 0x00FE = .ok .low ∧ decode 0x00FF = .ok .high ∧ decode 0x00FB = .ok .scr ∧
    decode 0x00FC = .ok .scl ∧
    ∀ (i : Instr) (e : Effect) (port : RefDisplay → RefDisplay),
      (i = .cls ∧ e = .clear ∧ port = RefDisplay.clear) ∨
      (i = .low ∧ e = .setMode .low ∧ port = fun d => d.setMode .low) ∨
      (i = .high ∧ e = .setMode .high ∧ port = fun d => d.setMode .high) ∨
      (i = .scr ∧ e = .scrollRight ∧ port = RefDisplay.scrollRight) ∨
      (i = .scl ∧ e = .scrollLeft ∧ port = RefDisplay.scrollLeft) →
      ∃ t, exec i s = .next t ∧ t.out = { s.out with effects := s.out.effects ++ [e] } ∧
        t = { s with out := t.out, ports := { s.ports with display := s.ports.display.request port } } ∧ SameMemory s t

/-- Derived from R185: SCD n asks the display for a scroll down by `n` lines and appends its effect, and changes nothing of the
core. That `n = 0` is legal is the spec's decision D31. -/
def Obligations.ScrollDownEmits : Prop :=
  ∀ (s : State) (n : Nibble),
    decode (0x00C#12 ++ n) = .ok (.scd n) ∧
    ∃ t, exec (.scd n) s = .next t ∧ t.out = { s.out with effects := s.out.effects ++ [.scrollDown n] } ∧
      t = { s with out := t.out, ports := { s.ports with display := s.ports.display.request fun d => d.scrollDown n } } ∧
      SameMemory s t

/-- Derived from R188, the spec's decision D32: EXIT halts with the cause Exit and emits ExitRequested; PC keeps NPC and nothing
else changes; no report. -/
def Obligations.ExitHalts : Prop :=
  decode 0x00FD = .ok .exit ∧
  ∀ s : State, ∃ t, exec .exit s = .next t ∧ t.es = .halted .exit ∧
    t.out = { s.out with effects := s.out.effects ++ [.exitRequested] } ∧ EngineOnly s t

/-- Derived from R180 (bit order, 16 by 16 layout and `n = 0` in Low mode are the spec's decision D21) on any display: with
`res` the resolution that the display reports, DRW toggles exactly the positions of the sprite's 1 bits, row by row and left to
right, each with some answer; VF is 1 exactly when an answer was "already set"; nothing else of the core changes. Of the ports
(log 1 to log 3) an external display stays one and only the count of free answers moves; the reference display stays one, in its
mode, and nothing else of them moves. -/
def Obligations.DrawTogglesSpriteBits : Prop :=
  ∀ (s : State) (x y n : Nibble) (res : Resolution) (rows cols bpr : Nat) (positions : List (Nat × Nat)),
    res = s.askResolution.1 →
    (n ≠ 0 ∧ rows = n.toNat ∧ cols = 8 ∧ bpr = 1) ∨ (n = 0 ∧ res = .high ∧ rows = 16 ∧ cols = 16 ∧ bpr = 2) ∨
      (n = 0 ∧ res = .low ∧ rows = 0 ∧ cols = 8 ∧ bpr = 1) →
    (rows * bpr > 0 → s.i.toNat + rows * bpr - 1 ≤ 4095) →
    (positions = (List.range rows).flatMap fun r => (List.range cols).filterMap fun c =>
      if (s.byteAt (s.i.toNat + r * bpr + c / 8)).getLsbD (7 - c % 8) then
        some (((s.getV x).toNat + c) % (if res = .low then 64 else 128),
          ((s.getV y).toNat + r) % (if res = .low then 32 else 64))
      else none) →
    decode (0xD#4 ++ x ++ y ++ n) = .ok (.drw x y n) ∧
    ∃ (t : State) (answers : List Bool),
      exec (.drw x y n) s = .next t ∧ answers.length = positions.length ∧
      t.out = { s.out with effects := s.out.effects ++
        (positions.zip answers).map fun p => Effect.pixelToggle p.1.1 p.1.2 p.2 } ∧
      (t.getV 15).toNat = (if answers.any id then 1 else 0) ∧
      SameRegistersBut [15] s t ∧ t = { s with v := t.v, out := t.out, ports := t.ports } ∧ SameMemory s t ∧
      (s.ports.display = .external → t.ports = { s.ports with draws := t.ports.draws }) ∧
      (∀ d, s.ports.display = .reference d →
        ∃ d', t.ports = { s.ports with display := .reference d' } ∧ d'.mode = d.mode)

/-- Derived from R180: a sprite whose bytes run past 0xFFF raises MemoryError(0x1000): no pixel, no effect, VF unchanged. Only
the count of free answers may have moved, for the resolution was read (the model's, log 12). -/
def Obligations.DrawPastMemoryRaises : Prop :=
  ∀ (s : State) (x y n : Nibble),
    spriteBytes n s.askResolution.1 > 0 → s.i.toNat + spriteBytes n s.askResolution.1 - 1 > 4095 →
    ∃ t, exec (.drw x y n) s = .next t ∧ t.es = .halted (.error (.memoryError 0x1000)) ∧
      t.out = { effects := [], report := some (.memoryError 0x1000) } ∧
      t = { s with es := t.es, out := t.out, ports := { s.ports with draws := t.ports.draws } } ∧ SameMemory s t

/-- Derived from R180, R193, R195 (the reference display is the spec's decision D23, the sprite's layout D21): on it DRW inverts
exactly the pixels the sprite covers, and VF is 1 exactly when it cleared one. -/
def Obligations.DrawXorsReferenceDisplay : Prop :=
  ∀ (s : State) (x y n : Nibble) (d : RefDisplay),
    s.ports.display = .reference d →
    (spriteBytes n d.mode > 0 → s.i.toNat + spriteBytes n d.mode - 1 ≤ 4095) →
    ∃ (t : State) (d' : RefDisplay),
      exec (.drw x y n) s = .next t ∧ t.ports = { s.ports with display := .reference d' } ∧ d'.mode = d.mode ∧
      (∀ px py, Frame.pixel d'.fb px py = true ↔
        ¬(Frame.pixel d.fb px py = true ↔ spriteCovers s (spriteShape n d.mode) d.mode x y px py)) ∧
      ((t.getV 15).toNat = 1 ↔
        ∃ px py, spriteCovers s (spriteShape n d.mode) d.mode x y px py ∧ Frame.pixel d.fb px py = true) ∧
      ((t.getV 15).toNat = 0 ∨ (t.getV 15).toNat = 1)

/-- Derived from R180 and R193: drawing the same sprite twice at the same place restores every pixel of the reference display.
-/
def Obligations.DrawTwiceRestoresReferenceDisplay : Prop :=
  ∀ (s : State) (x y n : Nibble) (d : RefDisplay),
    x ≠ 15 → y ≠ 15 → s.ports.display = .reference d →
    (spriteBytes n d.mode > 0 → s.i.toNat + spriteBytes n d.mode - 1 ≤ 4095) →
    ∃ (t u : State) (d' : RefDisplay),
      exec (.drw x y n) s = .next t ∧ exec (.drw x y n) t = .next u ∧ u.ports.display = .reference d' ∧
      d'.mode = d.mode ∧ ∀ px py, Frame.pixel d'.fb px py = Frame.pixel d.fb px py

/-- Derived from R197 (the spec's decision D23): the three scrolls of the reference display, pixel by pixel on its 128 by 64
buffer, whose screen is `w` by `h`. -/
def Obligations.ReferenceScrolls : Prop :=
  ∀ (d : RefDisplay) (n : Nibble) (w h px py : Nat),
    (d.mode = .low ∧ w = 64 ∧ h = 32) ∨ (d.mode = .high ∧ w = 128 ∧ h = 64) → px < 128 → py < 64 →
    Frame.pixel (d.scrollDown n).fb px py =
      (if px < w ∧ py < h then (if py < n.toNat then false else Frame.pixel d.fb px (py - n.toNat))
        else Frame.pixel d.fb px py) ∧
    Frame.pixel d.scrollRight.fb px py =
      (if px < w ∧ py < h then (if px < 4 then false else Frame.pixel d.fb (px - 4) py) else Frame.pixel d.fb px py) ∧
    Frame.pixel d.scrollLeft.fb px py =
      (if px < w ∧ py < h then (if px < w - 4 then Frame.pixel d.fb (px + 4) py else false)
        else Frame.pixel d.fb px py) ∧
    (d.scrollDown n).mode = d.mode ∧ d.scrollRight.mode = d.mode ∧ d.scrollLeft.mode = d.mode

/-- Derived from R192 to R196 (the spec's decision D23): the reference display's port operations: what CLS, LOW and HIGH do to
it through the core, what `set_pixel` answers and leaves, and its state after plugging it in. -/
def Obligations.ReferencePort : Prop :=
  (∀ (s : State) (d : RefDisplay) (i : Instr) (m : Resolution), s.ports.display = .reference d →
    (i = .cls ∧ m = d.mode) ∨ (i = .low ∧ m = .low) ∨ (i = .high ∧ m = .high) →
    ∃ t d', exec i s = .next t ∧ t.ports.display = .reference d' ∧ d'.mode = m ∧
      (∀ px py, Frame.pixel d'.fb px py = false) ∧ t.askResolution.1 = m) ∧
  (∀ (d : RefDisplay) (px py : Nat), px < 128 → py < 64 →
    (d.setPixel px py).1 = Frame.pixel d.fb px py ∧ (d.setPixel px py).2.mode = d.mode ∧
    ∀ qx qy, Frame.pixel (d.setPixel px py).2.fb qx qy =
      if qx = px ∧ qy = py then !Frame.pixel d.fb px py else Frame.pixel d.fb qx qy) ∧
  (∀ s : State, ∃ d, s.withReferenceDisplay.ports.display = .reference d ∧ d.mode = .low ∧
    ∀ px py, Frame.pixel d.fb px py = false)

/-! ## Key wait (47_key_wait.md, 60_exceptions.md) -/

/-- R200: LD Vx,K moves the engine to AwaitingKey(x) and does nothing else. -/
def Obligations.KeyReadWaits : Prop :=
  ∀ (s : State) (x : Nibble),
    decode (0xF#4 ++ x ++ 0x0A#8) = .ok (.ldVxK x) ∧
    ∃ t, exec (.ldVxK x) s = .next t ∧ t.es = .awaitingKey x ∧ t = { s with es := t.es } ∧ SameMemory s t

/-- Derived from R201, R228: a key delivered during the wait fills the latched register and makes the engine Ready, PC
untouched. That it closes the boot window is the model's own flag (log 6, from R70, the spec's decision D26). -/
def Obligations.DeliveredKeyEndsWait : Prop :=
  ∀ (s : State) (x k : Nibble), s.es = .awaitingKey x →
    ∃ t, hostOp (.deliverKey k) s = .next t ∧ (t.getV x).toNat = k.toNat ∧ t.es = .ready ∧ SameRegistersBut [x] s t ∧
      t = { s with v := t.v, es := t.es, booting := false } ∧ SameMemory s t

/-! ## The step and the errors (60_exceptions.md) -/

/-- Derived from R211 (PC after an error is the spec's decision D12): a step in Ready is fetch, advance, decode, execute. A word
that decodes to `i` runs `exec i` after the fetch and the advance of PC by 2, the effects of the step before gone; a word that
does not decode raises DecodeError after the advance; at 0xFFF the fetch raises MemoryError(0x1000) before it. The word is the
two bytes at PC, the lower address the high byte. -/
def Obligations.StepRunsDecodedInstruction : Prop :=
  ∀ s : State, s.es = .ready →
    (s.pc.toNat < 0xFFF → ∀ i : Instr, decode (s.byteAt s.pc.toNat ++ s.byteAt (s.pc.toNat + 1)) = .ok i →
      step s = exec i { s with pc := s.pc + 2, out := { effects := [], report := none }, booting := false }) ∧
    (s.pc.toNat < 0xFFF → (∀ i, decode (s.byteAt s.pc.toNat ++ s.byteAt (s.pc.toNat + 1)) ≠ .ok i) →
      ∃ t, step s = .next t ∧ t.pc.toNat = (s.pc.toNat + 2) % 4096 ∧
        ErrorTaken (.decodeError (s.byteAt s.pc.toNat ++ s.byteAt (s.pc.toNat + 1)))
          { s.beginStep with pc := s.pc + 2 } t) ∧
    (s.pc.toNat = 0xFFF → ∃ t, step s = .next t ∧ t.pc = s.pc ∧ ErrorTaken (.memoryError 0x1000) s.beginStep t)

/-- Derived from R230: in AwaitingKey a step changes no state of the machine; it answers no effect and no report. That the empty
answer replaces the one before and the step closes the boot window is the model's (log 14, log 6). -/
def Obligations.WaitingStepIdles : Prop :=
  ∀ (s : State) (x : Nibble), s.es = .awaitingKey x →
    step s = .next { s with out := { effects := [], report := none }, booting := false }

/-- Derived from R222, R229 (the spec's decisions D19, D18): a step in Halted, and a key delivered in Ready or Halted, change no
state of the machine. -/
def Obligations.HaltedStepAndStrayKeyDoNothing : Prop :=
  (∀ (s : State) (c : HaltCause), s.es = .halted c →
    step s = .next { s with out := { effects := [], report := none }, booting := false }) ∧
  ∀ (s : State) (k : Nibble), (∀ x, s.es ≠ .awaitingKey x) → hostOp (.deliverKey k) s = .next { s with booting := false }

/-- Derived from R120 to R201, as R213 is: which instruction's execute phase raises which error, and when: exactly as the table
says, for all forty. -/
def Obligations.ErrorTableIsExact : Prop :=
  ∀ (s : State) (i : Instr), s.es = .ready → s.out.report = none →
    ∃ t, exec i s = .next t ∧ t.out.report = executeError s i ∧
      ∀ e, t.es = .halted (.error e) ↔ executeError s i = some e

/-- Derived from R217, R218 (the spec's decisions D12, D9): a step that raises leaves everything but PC, ES and its answer as it
was (the window for loads closes and the count of free answers may move); PC stays only for the fetch error. -/
def Obligations.ErrorsArePrecise : Prop :=
  ∀ (s t : State) (e : EngineError), s.es = .ready → step s = .next t → t.out.report = some e →
    t.es = .halted (.error e) ∧ t.out.effects = [] ∧
    t.pc = (if s.pc = 0xFFF then s.pc else s.pc + 2) ∧
    t = { s with pc := t.pc, es := t.es, out := t.out, booting := false,
                 ports := { s.ports with draws := t.ports.draws } } ∧ SameMemory s t

/-- Derived from R63 to R65, as R66's sentence is: every MemoryError of a step carries 4096. -/
def Obligations.RunTimeMemoryErrorIs4096 : Prop :=
  ∀ (s t : State) (a : Nat), step s = .next t → t.out.report = some (.memoryError a) → a = 4096

/-- R36, R220: the only transitions of the engine state, over all five operations: Halted is left only by `reset()`; a key wait
ends by a key or `reset()` and starts by LD Vx,K; Ready becomes Halted by EXIT, by an error of a step, or by a load that fails.
-/
def Obligations.EngineTransitions : Prop :=
  ∀ (s t : State) (o : HostOp), s.Inv → hostOp o s = .next t →
    (∀ c, s.es = .halted c → o ≠ .reset → t.es = .halted c) ∧
    (o = .reset → t.es = .ready) ∧
    (∀ x, s.es = .awaitingKey x → t.es = .awaitingKey x ∨ t.es = .ready ∧ (o = .reset ∨ ∃ k, o = .deliverKey k)) ∧
    (∀ x, t.es = .awaitingKey x → s.es = .awaitingKey x ∨
      s.es = .ready ∧ o = .step ∧ ∃ w, s.fetch = .ok w ∧ decode w = .ok (.ldVxK x)) ∧
    (∀ c, t.es = .halted c → s.es = .halted c ∨ s.es = .ready ∧
      (o = .step ∧ c = .exit ∧ (∃ w, s.fetch = .ok w ∧ decode w = .ok .exit) ∨
        (o = .step ∨ ∃ origin bytes, o = .load origin bytes) ∧ ∃ e, c = .error e ∧ t.out.report = some e))

/-! ## Host operations (10_state.md R43) -/

/-- Derived from R226, R227 (the spec's decision D20): a tick decrements each timer that is not 0, in every engine state, and
touches nothing else (the window for loads closes, R70). -/
def Obligations.TicksDecrementTimers : Prop :=
  ∀ s : State, ∃ t, hostOp .tickTimers s = .next t ∧ t.dt.toNat = s.dt.toNat - 1 ∧ t.st.toNat = s.st.toNat - 1 ∧
    t = { s with dt := t.dt, st := t.st, booting := false } ∧ SameMemory s t

/-- Derived from R69 (the spec's decision D26): a load in the boot window stores the image and nothing else, or, past the end of
memory, writes nothing, halts with MemoryError(4096) and reports it. -/
def Obligations.LoadCopiesImage : Prop :=
  ∀ (s : State) (origin : Addr) (bytes : List Byte), s.booting = true →
    (origin.toNat + bytes.length ≤ 4096 →
      ∃ t, hostOp (.load origin bytes) s = .next t ∧
        (∀ k (h : k < bytes.length), t.byteAt (origin.toNat + k) = bytes[k]) ∧
        SameMemoryOutside origin.toNat bytes.length s t ∧
        t = { s with mem := t.mem, out := { effects := [], report := none } }) ∧
    (origin.toNat + bytes.length > 4096 →
      ∃ t, hostOp (.load origin bytes) s = .next t ∧ ErrorTaken (.memoryError 4096) s t)

/-- Derived from R70 (the spec's decision D26): the boot window: open after a reset, kept by loads, closed by any step, tick or
key; outside it a load is refused. -/
def Obligations.LoadOnlyInBootWindow : Prop :=
  (∀ (s : State) (origin : Addr) (bytes : List Byte), s.booting = false →
    hostOp (.load origin bytes) s = .refused .loadAfterBoot) ∧
  ∀ (s t : State) (o : HostOp), hostOp o s = .next t →
    t.booting = match o with
      | .reset => true
      | .load _ _ => s.booting
      | .step | .tickTimers | .deliverKey _ => false

/-- Derived from R51, R240 (PC, ES and the font are the spec's decision D14): every piece of state after reset, for every
parameters that R6 admits. -/
def Obligations.ResetValues : Prop :=
  ∀ p : Params, p.wellFormed = true →
    (∀ x, (State.resetWith p).getV x = 0) ∧ (State.resetWith p).i = 0 ∧ (State.resetWith p).dt = 0 ∧
    (State.resetWith p).st = 0 ∧ (State.resetWith p).sp.val = 0 ∧
    (∀ k (h : k < 16), (State.resetWith p).stack[k] = 0) ∧ (State.resetWith p).pc = p.origin ∧
    (State.resetWith p).es = .ready ∧
    (∀ k (h : k < p.fontData.length), (State.resetWith p).byteAt (p.fontBase.toNat + k) = p.fontData[k]) ∧
    ∀ a, a < p.fontBase.toNat ∨ p.fontBase.toNat + 80 ≤ a → (State.resetWith p).byteAt a = 0

/-- Derived from R241 (the spec's decision D14): `reset()` in any engine state gives the reset state of the machine's own
parameters; a plugged-in reference display returns to Low mode, all clear. Its clause about the ports is the model's choice (log
13). -/
def Obligations.ResetFromAnyState : Prop :=
  ∀ s : State, ∃ t, hostOp .reset s = .next t ∧ { t with ports := Ports.free } = State.resetWith s.params ∧
    t.params = s.params ∧
    ∀ d, s.ports.display = .reference d →
      ∃ d', t.ports.display = .reference d' ∧ d'.mode = .low ∧ ∀ px py, Frame.pixel d'.fb px py = false

/-- Derived from R242: after a reset and a load of an image at ORIGIN, the first step runs the image's first instruction; with
nothing loaded and ORIGIN above the font, it halts with DecodeError(0x0000). -/
def Obligations.BootRunsLoadedProgram : Prop :=
  (∀ (s : State) (i : Instr) (rest : List Byte), s.params.origin.toNat + 2 + rest.length ≤ 4096 →
    ∃ t u, hostOp .reset s = .next t ∧
      hostOp (.load s.params.origin ((encode i).highByte :: (encode i).kk :: rest)) t = .next u ∧
      u.pc = s.params.origin ∧ hostOp .step u = exec i { u with pc := u.pc + 2, booting := false }) ∧
  ∀ p : Params, p.wellFormed = true → p.fontBase.toNat + 80 ≤ p.origin.toNat → p.origin.toNat < 0xFFF →
    ∃ t, step (State.resetWith p) = .next t ∧ t.es = .halted (.error (.decodeError 0x0000)) ∧ t.pc = p.origin + 2

/-! ## Whole-machine rules -/

/-- Derived from R28: PC after each of the forty instructions, from NPC, when no error is raised. That JP V0 wraps mod 4096 is
the spec's decision D10; that SKP and SKNP ask about the key in the low nibble is D17 (log 9). -/
def Obligations.PcAfterEveryInstruction : Prop :=
  ∀ (s : State) (i : Instr), ∃ t, exec i s = .next t ∧ (executeError s i = none → t.pc.toNat = pcAfter s i)

/-- Derived from R120 to R201, as R22 is: which general registers an instruction may write; VF in particular only by the six
flag writers or as a named destination. -/
def Obligations.RegistersWrittenOnlyAsListed : Prop :=
  ∀ (s t : State) (i : Instr), exec i s = .next t → SameRegistersBut (writtenRegisters i) s t

/-- Derived from R25, R30, R31, R33, R35, R62: memory is written only by LD B and LD [I]; `I` only by LD I, ADD I, LD F; DT only
by LD DT and ST only by LD ST; SP only by CALL and RET and a stack entry only by CALL; the parameters and the boot window by
none. -/
def Obligations.SpecialStateWrittenOnlyAsListed : Prop :=
  ∀ (s t : State) (i : Instr), exec i s = .next t →
    ((∀ x, i ≠ .ldB x ∧ i ≠ .ldMemVx x) → t.mem = s.mem ∧ SameMemory s t) ∧
    ((∀ nnn x, i ≠ .ldI nnn ∧ i ≠ .addI x ∧ i ≠ .ldF x) → t.i = s.i) ∧
    ((∀ x, i ≠ .ldDtVx x) → t.dt = s.dt) ∧ ((∀ x, i ≠ .ldStVx x) → t.st = s.st) ∧
    ((∀ nnn, i ≠ .call nnn ∧ i ≠ .ret) → t.sp = s.sp) ∧ ((∀ nnn, i ≠ .call nnn) → t.stack = s.stack) ∧
    t.params = s.params ∧ t.booting = s.booting

/-- Derived from R211's list of inputs: an instruction other than SKP, SKNP, RND and DRW consumes no input: with other ports it
does the same to the rest of the machine. -/
def Obligations.OtherInstructionsIgnorePorts : Prop :=
  ∀ (s t : State) (i : Instr) (ports : Ports), asksPorts i = false → exec i s = .next t →
    ∃ u, exec i { s with ports := ports } = .next u ∧ { u with ports := t.ports } = t

/-- Derived from R77 and R211, as R79 is: what LD [I],Vx or LD B,Vx stores is what the very next fetch reads, wherever PC then
points: each of the two bytes fetched is the stored one inside the stored range and the old one outside it. -/
def Obligations.StoresAreFetchedAtOnce : Prop :=
  ∀ (s : State) (x : Nibble) (a : Addr), a.toNat < 0xFFF →
    (s.i.toNat + x.toNat ≤ 4095 →
      ∃ (t : State) (hi lo : Byte), exec (.ldMemVx x) s = .next t ∧ ({ t with pc := a }).fetch = .ok (hi ++ lo) ∧
        (∀ k : Nibble, k.toNat ≤ x.toNat →
          (a.toNat = s.i.toNat + k.toNat → hi = s.getV k) ∧ (a.toNat + 1 = s.i.toNat + k.toNat → lo = s.getV k)) ∧
        (a.toNat < s.i.toNat ∨ s.i.toNat + x.toNat < a.toNat → hi = s.byteAt a.toNat) ∧
        (a.toNat + 1 < s.i.toNat ∨ s.i.toNat + x.toNat < a.toNat + 1 → lo = s.byteAt (a.toNat + 1))) ∧
    (s.i.toNat + 2 ≤ 4095 →
      ∃ (t : State) (hi lo : Byte), exec (.ldB x) s = .next t ∧ ({ t with pc := a }).fetch = .ok (hi ++ lo) ∧
        (a.toNat = s.i.toNat → hi.toNat = (s.getV x).toNat / 100) ∧
        (a.toNat = s.i.toNat + 1 → hi.toNat = (s.getV x).toNat / 10 % 10) ∧
        (a.toNat = s.i.toNat + 2 → hi.toNat = (s.getV x).toNat % 10) ∧
        (a.toNat + 1 = s.i.toNat → lo.toNat = (s.getV x).toNat / 100) ∧
        (a.toNat + 1 = s.i.toNat + 1 → lo.toNat = (s.getV x).toNat / 10 % 10) ∧
        (a.toNat + 1 = s.i.toNat + 2 → lo.toNat = (s.getV x).toNat % 10) ∧
        (a.toNat < s.i.toNat ∨ s.i.toNat + 2 < a.toNat → hi = s.byteAt a.toNat) ∧
        (a.toNat + 1 < s.i.toNat ∨ s.i.toNat + 2 < a.toNat + 1 → lo = s.byteAt (a.toNat + 1)))

/-! ## Memory (20_memory.md) -/

/-- Derived from R63, R64, R65 (no wrap of the second address is the spec's decision D11): the four access primitives, at any
unreduced address: the big-endian word, the bytes a write changes, and the lowest address above 4095 as the error's. -/
def Obligations.MemoryPrimitives : Prop :=
  ∀ (s : State) (addr : Nat),
    s.memRead1 addr = (if addr > 4095 then .error (.memoryError addr) else .ok (s.byteAt addr)) ∧
    (∃ w, s.memRead2 addr = (if addr > 4095 then .error (.memoryError addr)
        else if addr + 1 > 4095 then .error (.memoryError (addr + 1)) else .ok w) ∧
      w.toNat = (s.byteAt addr).toNat * 256 + (s.byteAt (addr + 1)).toNat) ∧
    (∀ b, ∃ t, s.memWrite1 addr b = (if addr > 4095 then .error (.memoryError addr) else .ok t) ∧
      t.byteAt addr = b ∧ MemoryOnly addr 1 s t) ∧
    (∀ w, ∃ t, s.memWrite2 addr w = (if addr > 4095 then .error (.memoryError addr)
        else if addr + 1 > 4095 then .error (.memoryError (addr + 1)) else .ok t) ∧
      (t.byteAt addr).toNat = w.toNat / 256 ∧ (t.byteAt (addr + 1)).toNat = w.toNat % 256 ∧ MemoryOnly addr 2 s t)

/-! ## Invariants -/

/-- The invariant holds after reset, for every parameters that R6 admits. -/
def Obligations.ResetMeetsInvariant : Prop :=
  ∀ p : Params, p.wellFormed = true → (State.resetWith p).Inv

/-- Every step keeps the invariant: canonical memory inside its 4096 bytes, admitted parameters, the reference display's pixels
on its screen, a report only with the halt it caused, the engine's states of the boot window. -/
def Obligations.StepKeepsInvariant : Prop :=
  ∀ s t : State, s.Inv → step s = .next t → t.Inv

/-- Every operation of the host keeps it, in any order and number. -/
def Obligations.HostRunKeepsInvariant : Prop :=
  ∀ (os : List HostOp) (s t : State), s.Inv → hostRun os s = .next t → t.Inv

/-! ## The codec (30_encoding.md) -/

/-- Derived from R105 (the shift words are the spec's decision D4): the four codec laws: the round trip, its converse with the
shift words as the only exception, decode injective but for them, encode injective. -/
def Obligations.CodecLaws : Prop :=
  (∀ i : Instr, decode (encode i) = .ok i) ∧
  (∀ (w : OpCode) (i : Instr), decode w = .ok i →
    encode i = if w.op = 8 ∧ (w.n = 6 ∨ w.n = 0xE) then w &&& 0xFF0F else w) ∧
  (∀ (w w' : OpCode) (i : Instr), decode w = .ok i → decode w' = .ok i →
    w = w' ∨ w.op = 8 ∧ (w.n = 6 ∨ w.n = 0xE) ∧ w &&& 0xFF0F = w' &&& 0xFF0F) ∧
  ∀ i j : Instr, encode i = encode j → i = j

/-- Derived from R100, R101 (the set and its patterns are the spec's decisions D1, D2): a word decodes exactly when some row of
the opcode map covers it, to an instruction of a row that covers it; no word is covered by two rows; every other word is
rejected with its bit pattern. -/
def Obligations.DecoderAgreesWithOpcodeMap : Prop :=
  ∀ w : OpCode,
    (∀ i, decode w = .ok i → opcodeRow i ∈ opcodeTable ∧ (opcodeRow i).covers w = true) ∧
    (∀ row ∈ opcodeTable, row.covers w = true → ∃ i, decode w = .ok i ∧ opcodeRow i = row) ∧
    ((∀ row ∈ opcodeTable, row.covers w = false) → decode w = .error (.unsupportedOpcode w))

/-- R106: the eight byte-exact encodings of the source, in both directions. -/
def Obligations.SourceLiterals : Prop :=
  encode (.scd 0xA) = 0x00CA ∧ encode .scr = 0x00FB ∧ encode .cls = 0x00E0 ∧ encode .ret = 0x00EE ∧
  encode (.jp 0xABC) = 0x1ABC ∧ encode (.call 0xABC) = 0x2ABC ∧ encode (.drw 0xA 0xB 0xC) = 0xDABC ∧
  encode (.ldVxMem 0xA) = 0xFA65 ∧
  decode 0x00CA = .ok (.scd 0xA) ∧ decode 0x00FB = .ok .scr ∧ decode 0x00E0 = .ok .cls ∧ decode 0x00EE = .ok .ret ∧
  decode 0x1ABC = .ok (.jp 0xABC) ∧ decode 0x2ABC = .ok (.call 0xABC) ∧ decode 0xDABC = .ok (.drw 0xA 0xB 0xC) ∧
  decode 0xFA65 = .ok (.ldVxMem 0xA)

/-- R92: the accessors are the fields the spec numbers; each insertion replaces its field and leaves the other bits unchanged.
-/
def Obligations.FieldAccessorsAndInsertions : Prop :=
  ∀ (w : OpCode) (f : Nibble) (b : Byte) (a : Addr),
    (w.op.toNat = w.toNat / 4096 ∧ w.x.toNat = w.toNat / 256 % 16 ∧ w.y.toNat = w.toNat / 16 % 16 ∧
      w.n.toNat = w.toNat % 16 ∧ w.kk.toNat = w.toNat % 256 ∧ w.nnn.toNat = w.toNat % 4096 ∧
      w.prefix12.toNat = w.toNat / 16) ∧
    ((w.withOp f).op = f ∧ (w.withOp f).nnn = w.nnn) ∧
    ((w.withX f).x = f ∧ (w.withX f).op = w.op ∧ (w.withX f).kk = w.kk) ∧
    ((w.withY f).y = f ∧ (w.withY f).op = w.op ∧ (w.withY f).x = w.x ∧ (w.withY f).n = w.n) ∧
    ((w.withN f).n = f ∧ (w.withN f).prefix12 = w.prefix12) ∧
    ((w.withKk b).kk = b ∧ (w.withKk b).op = w.op ∧ (w.withKk b).x = w.x) ∧
    ((w.withNnn a).nnn = a ∧ (w.withNnn a).op = w.op) ∧
    ((w.withPrefix12 a).prefix12 = a ∧ (w.withPrefix12 a).n = w.n)

/-- Derived (log 11): the word laid down by `withFetchWord` is the one the very next step runs. -/
def Obligations.PlacedWordRunsNext : Prop :=
  ∀ (s : State) (w : Nat) (i : Instr), decodeTableWord 16 w = some i →
    ∃ t, (s.withFetchWord 16 w).es = .ready ∧ step (s.withFetchWord 16 w) = exec i t ∧
      t = { s.withFetchWord 16 w with pc := t.pc, out := { effects := [], report := none }, booting := false } ∧
      t.v = s.v ∧ t.i = s.i ∧ t.sp = s.sp ∧ t.stack = s.stack ∧
      t.pc.toNat = ((if s.pc = 0xFFF then 0xFFE else s.pc.toNat) + 2) % 4096
end

