-- ==== Sys2Proof/Laws/Codec.lean ====
section
/-! SUPPORT. The fields of the instruction formats as numbers, and a word as the concatenation of its fields. -/

namespace Sys2Proof

/-! ## Values of the layouts (30_encoding.md R91) -/

theorem toNat_append_eq {m n : Nat} (a : BitVec m) (b : BitVec n) : (a ++ b).toNat = a.toNat * 2 ^ n + b.toNat := by
  rw [BitVec.toNat_append, ← Nat.shiftLeft_add_eq_or_of_lt b.isLt, Nat.shiftLeft_eq]

theorem toNat_xys (a b c d : Nibble) :
    BitVec.toNat (a ++ b ++ c ++ d : OpCode) = a.toNat * 4096 + b.toNat * 256 + c.toNat * 16 + d.toNat := by
  rw [toNat_append_eq, toNat_append_eq, toNat_append_eq]; omega

theorem toNat_xs (a b : Nibble) (k : Byte) :
    BitVec.toNat (a ++ b ++ k : OpCode) = a.toNat * 4096 + b.toNat * 256 + k.toNat := by
  rw [toNat_append_eq, toNat_append_eq]; omega

theorem toNat_a (a : Nibble) (l : Addr) : BitVec.toNat (a ++ l : OpCode) = a.toNat * 4096 + l.toNat := by
  rw [toNat_append_eq]; rfl

theorem toNat_pn (p : BitVec 12) (d : Nibble) : BitVec.toNat (p ++ d : OpCode) = p.toNat * 16 + d.toNat := by
  rw [toNat_append_eq]; rfl

theorem toNat_bytes (hi lo : Byte) : BitVec.toNat (hi ++ lo : OpCode) = hi.toNat * 256 + lo.toNat := by
  rw [toNat_append_eq]; rfl

/-! ## Values of the accessors (R92) -/

theorem OpCode.toNat_op (w : OpCode) : w.op.toNat = w.toNat / 4096 % 16 := by
  simp [OpCode.op, BitVec.extractLsb'_toNat, Nat.shiftRight_eq_div_pow]
theorem OpCode.toNat_x (w : OpCode) : w.x.toNat = w.toNat / 256 % 16 := by
  simp [OpCode.x, BitVec.extractLsb'_toNat, Nat.shiftRight_eq_div_pow]
theorem OpCode.toNat_y (w : OpCode) : w.y.toNat = w.toNat / 16 % 16 := by
  simp [OpCode.y, BitVec.extractLsb'_toNat, Nat.shiftRight_eq_div_pow]
theorem OpCode.toNat_n (w : OpCode) : w.n.toNat = w.toNat % 16 := by
  simp [OpCode.n, BitVec.extractLsb'_toNat]
theorem OpCode.toNat_kk (w : OpCode) : w.kk.toNat = w.toNat % 256 := by
  simp [OpCode.kk, BitVec.extractLsb'_toNat]
theorem OpCode.toNat_nnn (w : OpCode) : w.nnn.toNat = w.toNat % 4096 := by
  simp [OpCode.nnn, BitVec.extractLsb'_toNat]
theorem OpCode.toNat_prefix12 (w : OpCode) : w.prefix12.toNat = w.toNat / 16 := by
  have := w.isLt
  simp [OpCode.prefix12, BitVec.extractLsb'_toNat, Nat.shiftRight_eq_div_pow]; omega
theorem OpCode.toNat_highByte (w : OpCode) : w.highByte.toNat = w.toNat / 256 := by
  have := w.isLt
  simp [OpCode.highByte, BitVec.extractLsb'_toNat, Nat.shiftRight_eq_div_pow]; omega

/-! ## The accessors on each layout -/

section
variable (a b c d : Nibble) (k lo : Byte) (l : Addr)

@[simp] theorem OpCode.op_xys : OpCode.op (a ++ b ++ c ++ d) = a :=
  BitVec.eq_of_toNat_eq (by rw [OpCode.toNat_op, toNat_xys]; omega)
@[simp] theorem OpCode.x_xys : OpCode.x (a ++ b ++ c ++ d) = b :=
  BitVec.eq_of_toNat_eq (by rw [OpCode.toNat_x, toNat_xys]; omega)
@[simp] theorem OpCode.y_xys : OpCode.y (a ++ b ++ c ++ d) = c :=
  BitVec.eq_of_toNat_eq (by rw [OpCode.toNat_y, toNat_xys]; omega)
@[simp] theorem OpCode.n_xys : OpCode.n (a ++ b ++ c ++ d) = d :=
  BitVec.eq_of_toNat_eq (by rw [OpCode.toNat_n, toNat_xys]; omega)

@[simp] theorem OpCode.op_xs : OpCode.op (a ++ b ++ k) = a :=
  BitVec.eq_of_toNat_eq (by rw [OpCode.toNat_op, toNat_xs]; omega)
@[simp] theorem OpCode.x_xs : OpCode.x (a ++ b ++ k) = b :=
  BitVec.eq_of_toNat_eq (by rw [OpCode.toNat_x, toNat_xs]; omega)
@[simp] theorem OpCode.kk_xs : OpCode.kk (a ++ b ++ k) = k :=
  BitVec.eq_of_toNat_eq (by rw [OpCode.toNat_kk, toNat_xs]; omega)

@[simp] theorem OpCode.op_a : OpCode.op (a ++ l) = a :=
  BitVec.eq_of_toNat_eq (by rw [OpCode.toNat_op, toNat_a]; omega)
@[simp] theorem OpCode.nnn_a : OpCode.nnn (a ++ l) = l :=
  BitVec.eq_of_toNat_eq (by rw [OpCode.toNat_nnn, toNat_a]; omega)

@[simp] theorem OpCode.prefix12_pn : OpCode.prefix12 (l ++ d) = l :=
  BitVec.eq_of_toNat_eq (by rw [OpCode.toNat_prefix12, toNat_pn]; omega)
@[simp] theorem OpCode.n_pn : OpCode.n (l ++ d) = d :=
  BitVec.eq_of_toNat_eq (by rw [OpCode.toNat_n, toNat_pn]; omega)
theorem OpCode.op_pn_0 : OpCode.op (0x00C#12 ++ d) = 0 :=
  BitVec.eq_of_toNat_eq (by rw [OpCode.toNat_op, toNat_pn]; simp; omega)

@[simp] theorem OpCode.highByte_bytes : OpCode.highByte (k ++ lo) = k :=
  BitVec.eq_of_toNat_eq (by rw [OpCode.toNat_highByte, toNat_bytes]; omega)
@[simp] theorem OpCode.kk_bytes : OpCode.kk (k ++ lo) = lo :=
  BitVec.eq_of_toNat_eq (by rw [OpCode.toNat_kk, toNat_bytes]; omega)

end

/-! ## A word is the concatenation of its fields -/

theorem OpCode.eq_xys (w : OpCode) : w = w.op ++ w.x ++ w.y ++ w.n := by
  have := w.isLt
  refine BitVec.eq_of_toNat_eq ?_
  rw [toNat_xys, OpCode.toNat_op, OpCode.toNat_x, OpCode.toNat_y, OpCode.toNat_n]; omega

theorem OpCode.eq_xs (w : OpCode) : w = w.op ++ w.x ++ w.kk := by
  have := w.isLt
  refine BitVec.eq_of_toNat_eq ?_
  rw [toNat_xs, OpCode.toNat_op, OpCode.toNat_x, OpCode.toNat_kk]; omega

theorem OpCode.eq_a (w : OpCode) : w = w.op ++ w.nnn := by
  have := w.isLt
  refine BitVec.eq_of_toNat_eq ?_
  rw [toNat_a, OpCode.toNat_op, OpCode.toNat_nnn]; omega

theorem OpCode.eq_pn (w : OpCode) : w = w.prefix12 ++ w.n := by
  refine BitVec.eq_of_toNat_eq ?_
  rw [toNat_pn, OpCode.toNat_prefix12, OpCode.toNat_n]; omega

/-- The two stored bytes of a word are the word (20_memory.md R68). -/
@[simp] theorem OpCode.bytes_eq (w : OpCode) : w.highByte ++ w.kk = w := by
  refine BitVec.eq_of_toNat_eq ?_
  rw [toNat_bytes, OpCode.toNat_highByte, OpCode.toNat_kk]; omega

/-- Decoding two bytes is decoding the word they make. -/
theorem decodeBytes_eq (hi lo : Byte) (rest : List Byte) :
    decodeBytes (hi :: lo :: rest) = (decode (hi ++ lo)).map fun i => (i, rest) := by
  cases h : decode (hi ++ lo) <;> simp [decodeBytes, h, Except.map]

/-- The host's numbering of a word is the word itself. -/
theorem decodeTableWord_eq (nbits w : Nat) :
    decodeTableWord nbits w = (decode (tableWord nbits w)).toOption := by
  cases h : decode (tableWord nbits w) <;> simp [decodeTableWord, decodeBytes, h, Except.toOption]

theorem decode_ok_iff (w : OpCode) (i : Instr) : decode w = .ok i ↔ decodeOp w = some i := by
  cases h : decodeOp w <;> simp [decode, h]

end Sys2Proof
end

