-- ==== Sys2Proof/Laws/Display.lean ====
section
/-! SUPPORT. Pixel by pixel: what the frame buffer operations and the reference display's operations leave. -/

namespace Sys2Proof.Machine

theorem Frame.pixel_of_lt (fb : Frame) (px py : Nat) (h : py < 64) : Frame.pixel fb px py = fb[py].getLsbD px := by
  simp [Frame.pixel, h]

theorem Frame.pixel_of_ge (fb : Frame) (px py : Nat) (h : 64 ≤ py) : Frame.pixel fb px py = false := by
  have : ¬ py < 64 := by omega
  simp [Frame.pixel, this]

/-- A position outside the buffer holds no pixel. -/
theorem Frame.pixel_outside (fb : Frame) (px py : Nat) (h : 128 ≤ px ∨ 64 ≤ py) : Frame.pixel fb px py = false := by
  by_cases hy : py < 64
  · rw [Frame.pixel_of_lt fb px py hy]
    exact BitVec.getLsbD_of_ge _ _ (by omega)
  · exact Frame.pixel_of_ge fb px py (by omega)

@[simp] theorem Frame.pixel_blank (px py : Nat) : Frame.pixel Frame.blank px py = false := by
  by_cases hy : py < 64
  · simp [Frame.pixel_of_lt _ _ _ hy, Frame.blank]
  · exact Frame.pixel_of_ge _ _ _ (by omega)

theorem Frame.pixel_build (f : Nat → Nat → Bool) (px py : Nat) :
    Frame.pixel (Frame.build f) px py = (decide (px < 128 ∧ py < 64) && f px py) := by
  by_cases hy : py < 64
  · by_cases hx : px < 128
    · rw [Frame.pixel_of_lt _ _ _ hy]
      simp [Frame.build, hx, hy]
    · rw [Frame.pixel_outside _ _ _ (by omega)]; simp [hx]
  · rw [Frame.pixel_of_ge _ _ _ (by omega)]; simp [hy]

/-- `flip` inverts the one pixel, when it lies in the buffer. -/
theorem Frame.pixel_flip (fb : Frame) (px py qx qy : Nat) :
    Frame.pixel (Frame.flip fb px py) qx qy =
      if qx = px ∧ qy = py ∧ px < 128 ∧ py < 64 then !Frame.pixel fb px py else Frame.pixel fb qx qy := by
  unfold Frame.flip
  by_cases hy : py < 64
  · simp only [hy, Vector.getElem?_eq_getElem]
    by_cases hqy : qy < 64
    · rw [Frame.pixel_of_lt _ _ _ hqy, Frame.pixel_of_lt fb px py hy, Frame.pixel_of_lt fb qx qy hqy,
        Vector.getElem_setIfInBounds]
      by_cases he : qy = py
      · subst he
        by_cases hx : qx = px
        · subst hx
          by_cases h128 : qx < 128 <;> simp [BitVec.getLsbD_twoPow, h128]
        · have hx' : ¬ px = qx := fun h => hx h.symm
          simp [BitVec.getLsbD_twoPow, hx, hx']
      · have he' : ¬ py = qy := fun h => he h.symm
        simp [he, he']
    · rw [Frame.pixel_of_ge _ _ _ (by omega), Frame.pixel_of_ge fb qx qy (by omega), if_neg (by omega)]
  · have hn : fb[py]? = none := by simp; omega
    rw [hn, if_neg (by omega)]

/-! ## The reference display -/

theorem RefDisplay.pixel_scrollDown (d : RefDisplay) (n : Nibble) (px py : Nat) :
    Frame.pixel (d.scrollDown n).fb px py = (decide (px < 128 ∧ py < 64) &&
      if onScreen d.mode px py then (if n.toNat ≤ py then Frame.pixel d.fb px (py - n.toNat) else false)
      else Frame.pixel d.fb px py) := by
  rw [RefDisplay.scrollDown, Frame.pixel_build]

theorem RefDisplay.pixel_scrollRight (d : RefDisplay) (px py : Nat) :
    Frame.pixel d.scrollRight.fb px py = (decide (px < 128 ∧ py < 64) &&
      if onScreen d.mode px py then (if 4 ≤ px then Frame.pixel d.fb (px - 4) py else false)
      else Frame.pixel d.fb px py) := by
  rw [RefDisplay.scrollRight, Frame.pixel_build]

theorem RefDisplay.pixel_scrollLeft (d : RefDisplay) (px py : Nat) :
    Frame.pixel d.scrollLeft.fb px py = (decide (px < 128 ∧ py < 64) &&
      if onScreen d.mode px py then (if px + 4 < screenWidth d.mode then Frame.pixel d.fb (px + 4) py else false)
      else Frame.pixel d.fb px py) := by
  rw [RefDisplay.scrollLeft, Frame.pixel_build]

@[simp] theorem RefDisplay.scrollDown_mode (d : RefDisplay) (n : Nibble) : (d.scrollDown n).mode = d.mode := rfl
@[simp] theorem RefDisplay.scrollRight_mode (d : RefDisplay) : d.scrollRight.mode = d.mode := rfl
@[simp] theorem RefDisplay.scrollLeft_mode (d : RefDisplay) : d.scrollLeft.mode = d.mode := rfl
@[simp] theorem RefDisplay.clear_mode (d : RefDisplay) : d.clear.mode = d.mode := rfl
@[simp] theorem RefDisplay.setMode_mode (d : RefDisplay) (m : Resolution) : (d.setMode m).mode = m := rfl
@[simp] theorem RefDisplay.setPixel_mode (d : RefDisplay) (px py : Nat) : (d.setPixel px py).2.mode = d.mode := rfl
@[simp] theorem RefDisplay.setPixel_answer (d : RefDisplay) (px py : Nat) :
    (d.setPixel px py).1 = Frame.pixel d.fb px py := rfl
@[simp] theorem RefDisplay.setPixel_fb (d : RefDisplay) (px py : Nat) :
    (d.setPixel px py).2.fb = Frame.flip d.fb px py := rfl

theorem screenWidth_le (m : Resolution) : screenWidth m ≤ 128 := by cases m <;> decide
theorem screenHeight_le (m : Resolution) : screenHeight m ≤ 64 := by cases m <;> decide

@[simp] theorem Display.request_external (c : RefDisplay → RefDisplay) : Display.external.request c = .external := rfl
@[simp] theorem Display.request_reference (d : RefDisplay) (c : RefDisplay → RefDisplay) :
    (Display.reference d).request c = .reference (c d) := rfl

end Sys2Proof.Machine
end

