-- ==== Sys2Proof/Laws/State.lean ====
section
/-! SUPPORT. One lemma per field per update of the state, so that no later proof unfolds a record update. -/

namespace Sys2Proof.Machine


/-! ### `setV` -/

@[simp] theorem State.setV_v (s : State) (x : Nibble) (b : Byte) : (s.setV x b).v = s.v.set x.toNat b x.isLt := rfl
@[simp] theorem State.setV_i (s : State) (x : Nibble) (b : Byte) : (s.setV x b).i = s.i := rfl
@[simp] theorem State.setV_dt (s : State) (x : Nibble) (b : Byte) : (s.setV x b).dt = s.dt := rfl
@[simp] theorem State.setV_st (s : State) (x : Nibble) (b : Byte) : (s.setV x b).st = s.st := rfl
@[simp] theorem State.setV_pc (s : State) (x : Nibble) (b : Byte) : (s.setV x b).pc = s.pc := rfl
@[simp] theorem State.setV_sp (s : State) (x : Nibble) (b : Byte) : (s.setV x b).sp = s.sp := rfl
@[simp] theorem State.setV_stack (s : State) (x : Nibble) (b : Byte) : (s.setV x b).stack = s.stack := rfl
@[simp] theorem State.setV_mem (s : State) (x : Nibble) (b : Byte) : (s.setV x b).mem = s.mem := rfl
@[simp] theorem State.setV_es (s : State) (x : Nibble) (b : Byte) : (s.setV x b).es = s.es := rfl
@[simp] theorem State.setV_out (s : State) (x : Nibble) (b : Byte) : (s.setV x b).out = s.out := rfl
@[simp] theorem State.setV_booting (s : State) (x : Nibble) (b : Byte) : (s.setV x b).booting = s.booting := rfl
@[simp] theorem State.setV_params (s : State) (x : Nibble) (b : Byte) : (s.setV x b).params = s.params := rfl
@[simp] theorem State.setV_ports (s : State) (x : Nibble) (b : Byte) : (s.setV x b).ports = s.ports := rfl

/-! ### `setVF` -/

@[simp] theorem State.setVF_v (s : State) (f : Bool) : (s.setVF f).v = (s.setV 0xF (flagByte f)).v := rfl
@[simp] theorem State.setVF_i (s : State) (f : Bool) : (s.setVF f).i = s.i := rfl
@[simp] theorem State.setVF_dt (s : State) (f : Bool) : (s.setVF f).dt = s.dt := rfl
@[simp] theorem State.setVF_st (s : State) (f : Bool) : (s.setVF f).st = s.st := rfl
@[simp] theorem State.setVF_pc (s : State) (f : Bool) : (s.setVF f).pc = s.pc := rfl
@[simp] theorem State.setVF_sp (s : State) (f : Bool) : (s.setVF f).sp = s.sp := rfl
@[simp] theorem State.setVF_stack (s : State) (f : Bool) : (s.setVF f).stack = s.stack := rfl
@[simp] theorem State.setVF_mem (s : State) (f : Bool) : (s.setVF f).mem = s.mem := rfl
@[simp] theorem State.setVF_es (s : State) (f : Bool) : (s.setVF f).es = s.es := rfl
@[simp] theorem State.setVF_out (s : State) (f : Bool) : (s.setVF f).out = s.out := rfl
@[simp] theorem State.setVF_booting (s : State) (f : Bool) : (s.setVF f).booting = s.booting := rfl
@[simp] theorem State.setVF_params (s : State) (f : Bool) : (s.setVF f).params = s.params := rfl
@[simp] theorem State.setVF_ports (s : State) (f : Bool) : (s.setVF f).ports = s.ports := rfl

/-! ### `setVThenFlag` -/

@[simp] theorem State.setVThenFlag_v (s : State) (x : Nibble) (b : Byte) (f : Bool) : (s.setVThenFlag x b f).v = ((s.setV x b).setVF f).v := rfl
@[simp] theorem State.setVThenFlag_i (s : State) (x : Nibble) (b : Byte) (f : Bool) : (s.setVThenFlag x b f).i = s.i := rfl
@[simp] theorem State.setVThenFlag_dt (s : State) (x : Nibble) (b : Byte) (f : Bool) : (s.setVThenFlag x b f).dt = s.dt := rfl
@[simp] theorem State.setVThenFlag_st (s : State) (x : Nibble) (b : Byte) (f : Bool) : (s.setVThenFlag x b f).st = s.st := rfl
@[simp] theorem State.setVThenFlag_pc (s : State) (x : Nibble) (b : Byte) (f : Bool) : (s.setVThenFlag x b f).pc = s.pc := rfl
@[simp] theorem State.setVThenFlag_sp (s : State) (x : Nibble) (b : Byte) (f : Bool) : (s.setVThenFlag x b f).sp = s.sp := rfl
@[simp] theorem State.setVThenFlag_stack (s : State) (x : Nibble) (b : Byte) (f : Bool) : (s.setVThenFlag x b f).stack = s.stack := rfl
@[simp] theorem State.setVThenFlag_mem (s : State) (x : Nibble) (b : Byte) (f : Bool) : (s.setVThenFlag x b f).mem = s.mem := rfl
@[simp] theorem State.setVThenFlag_es (s : State) (x : Nibble) (b : Byte) (f : Bool) : (s.setVThenFlag x b f).es = s.es := rfl
@[simp] theorem State.setVThenFlag_out (s : State) (x : Nibble) (b : Byte) (f : Bool) : (s.setVThenFlag x b f).out = s.out := rfl
@[simp] theorem State.setVThenFlag_booting (s : State) (x : Nibble) (b : Byte) (f : Bool) : (s.setVThenFlag x b f).booting = s.booting := rfl
@[simp] theorem State.setVThenFlag_params (s : State) (x : Nibble) (b : Byte) (f : Bool) : (s.setVThenFlag x b f).params = s.params := rfl
@[simp] theorem State.setVThenFlag_ports (s : State) (x : Nibble) (b : Byte) (f : Bool) : (s.setVThenFlag x b f).ports = s.ports := rfl

/-! ### `setFirstV` -/

@[simp] theorem State.setFirstV_i (s : State) (bs : List Byte) : (s.setFirstV bs).i = s.i := rfl
@[simp] theorem State.setFirstV_dt (s : State) (bs : List Byte) : (s.setFirstV bs).dt = s.dt := rfl
@[simp] theorem State.setFirstV_st (s : State) (bs : List Byte) : (s.setFirstV bs).st = s.st := rfl
@[simp] theorem State.setFirstV_pc (s : State) (bs : List Byte) : (s.setFirstV bs).pc = s.pc := rfl
@[simp] theorem State.setFirstV_sp (s : State) (bs : List Byte) : (s.setFirstV bs).sp = s.sp := rfl
@[simp] theorem State.setFirstV_stack (s : State) (bs : List Byte) : (s.setFirstV bs).stack = s.stack := rfl
@[simp] theorem State.setFirstV_mem (s : State) (bs : List Byte) : (s.setFirstV bs).mem = s.mem := rfl
@[simp] theorem State.setFirstV_es (s : State) (bs : List Byte) : (s.setFirstV bs).es = s.es := rfl
@[simp] theorem State.setFirstV_out (s : State) (bs : List Byte) : (s.setFirstV bs).out = s.out := rfl
@[simp] theorem State.setFirstV_booting (s : State) (bs : List Byte) : (s.setFirstV bs).booting = s.booting := rfl
@[simp] theorem State.setFirstV_params (s : State) (bs : List Byte) : (s.setFirstV bs).params = s.params := rfl
@[simp] theorem State.setFirstV_ports (s : State) (bs : List Byte) : (s.setFirstV bs).ports = s.ports := rfl

/-! ### `setI` -/

@[simp] theorem State.setI_v (s : State) (a : Addr) : (s.setI a).v = s.v := rfl
@[simp] theorem State.setI_i (s : State) (a : Addr) : (s.setI a).i = a := rfl
@[simp] theorem State.setI_dt (s : State) (a : Addr) : (s.setI a).dt = s.dt := rfl
@[simp] theorem State.setI_st (s : State) (a : Addr) : (s.setI a).st = s.st := rfl
@[simp] theorem State.setI_pc (s : State) (a : Addr) : (s.setI a).pc = s.pc := rfl
@[simp] theorem State.setI_sp (s : State) (a : Addr) : (s.setI a).sp = s.sp := rfl
@[simp] theorem State.setI_stack (s : State) (a : Addr) : (s.setI a).stack = s.stack := rfl
@[simp] theorem State.setI_mem (s : State) (a : Addr) : (s.setI a).mem = s.mem := rfl
@[simp] theorem State.setI_es (s : State) (a : Addr) : (s.setI a).es = s.es := rfl
@[simp] theorem State.setI_out (s : State) (a : Addr) : (s.setI a).out = s.out := rfl
@[simp] theorem State.setI_booting (s : State) (a : Addr) : (s.setI a).booting = s.booting := rfl
@[simp] theorem State.setI_params (s : State) (a : Addr) : (s.setI a).params = s.params := rfl
@[simp] theorem State.setI_ports (s : State) (a : Addr) : (s.setI a).ports = s.ports := rfl

/-! ### `setPc` -/

@[simp] theorem State.setPc_v (s : State) (a : Addr) : (s.setPc a).v = s.v := rfl
@[simp] theorem State.setPc_i (s : State) (a : Addr) : (s.setPc a).i = s.i := rfl
@[simp] theorem State.setPc_dt (s : State) (a : Addr) : (s.setPc a).dt = s.dt := rfl
@[simp] theorem State.setPc_st (s : State) (a : Addr) : (s.setPc a).st = s.st := rfl
@[simp] theorem State.setPc_pc (s : State) (a : Addr) : (s.setPc a).pc = a := rfl
@[simp] theorem State.setPc_sp (s : State) (a : Addr) : (s.setPc a).sp = s.sp := rfl
@[simp] theorem State.setPc_stack (s : State) (a : Addr) : (s.setPc a).stack = s.stack := rfl
@[simp] theorem State.setPc_mem (s : State) (a : Addr) : (s.setPc a).mem = s.mem := rfl
@[simp] theorem State.setPc_es (s : State) (a : Addr) : (s.setPc a).es = s.es := rfl
@[simp] theorem State.setPc_out (s : State) (a : Addr) : (s.setPc a).out = s.out := rfl
@[simp] theorem State.setPc_booting (s : State) (a : Addr) : (s.setPc a).booting = s.booting := rfl
@[simp] theorem State.setPc_params (s : State) (a : Addr) : (s.setPc a).params = s.params := rfl
@[simp] theorem State.setPc_ports (s : State) (a : Addr) : (s.setPc a).ports = s.ports := rfl

/-! ### `setDt` -/

@[simp] theorem State.setDt_v (s : State) (b : Byte) : (s.setDt b).v = s.v := rfl
@[simp] theorem State.setDt_i (s : State) (b : Byte) : (s.setDt b).i = s.i := rfl
@[simp] theorem State.setDt_dt (s : State) (b : Byte) : (s.setDt b).dt = b := rfl
@[simp] theorem State.setDt_st (s : State) (b : Byte) : (s.setDt b).st = s.st := rfl
@[simp] theorem State.setDt_pc (s : State) (b : Byte) : (s.setDt b).pc = s.pc := rfl
@[simp] theorem State.setDt_sp (s : State) (b : Byte) : (s.setDt b).sp = s.sp := rfl
@[simp] theorem State.setDt_stack (s : State) (b : Byte) : (s.setDt b).stack = s.stack := rfl
@[simp] theorem State.setDt_mem (s : State) (b : Byte) : (s.setDt b).mem = s.mem := rfl
@[simp] theorem State.setDt_es (s : State) (b : Byte) : (s.setDt b).es = s.es := rfl
@[simp] theorem State.setDt_out (s : State) (b : Byte) : (s.setDt b).out = s.out := rfl
@[simp] theorem State.setDt_booting (s : State) (b : Byte) : (s.setDt b).booting = s.booting := rfl
@[simp] theorem State.setDt_params (s : State) (b : Byte) : (s.setDt b).params = s.params := rfl
@[simp] theorem State.setDt_ports (s : State) (b : Byte) : (s.setDt b).ports = s.ports := rfl

/-! ### `setSt` -/

@[simp] theorem State.setSt_v (s : State) (b : Byte) : (s.setSt b).v = s.v := rfl
@[simp] theorem State.setSt_i (s : State) (b : Byte) : (s.setSt b).i = s.i := rfl
@[simp] theorem State.setSt_dt (s : State) (b : Byte) : (s.setSt b).dt = s.dt := rfl
@[simp] theorem State.setSt_st (s : State) (b : Byte) : (s.setSt b).st = b := rfl
@[simp] theorem State.setSt_pc (s : State) (b : Byte) : (s.setSt b).pc = s.pc := rfl
@[simp] theorem State.setSt_sp (s : State) (b : Byte) : (s.setSt b).sp = s.sp := rfl
@[simp] theorem State.setSt_stack (s : State) (b : Byte) : (s.setSt b).stack = s.stack := rfl
@[simp] theorem State.setSt_mem (s : State) (b : Byte) : (s.setSt b).mem = s.mem := rfl
@[simp] theorem State.setSt_es (s : State) (b : Byte) : (s.setSt b).es = s.es := rfl
@[simp] theorem State.setSt_out (s : State) (b : Byte) : (s.setSt b).out = s.out := rfl
@[simp] theorem State.setSt_booting (s : State) (b : Byte) : (s.setSt b).booting = s.booting := rfl
@[simp] theorem State.setSt_params (s : State) (b : Byte) : (s.setSt b).params = s.params := rfl
@[simp] theorem State.setSt_ports (s : State) (b : Byte) : (s.setSt b).ports = s.ports := rfl

/-! ### `setEs` -/

@[simp] theorem State.setEs_v (s : State) (e : EngineState) : (s.setEs e).v = s.v := rfl
@[simp] theorem State.setEs_i (s : State) (e : EngineState) : (s.setEs e).i = s.i := rfl
@[simp] theorem State.setEs_dt (s : State) (e : EngineState) : (s.setEs e).dt = s.dt := rfl
@[simp] theorem State.setEs_st (s : State) (e : EngineState) : (s.setEs e).st = s.st := rfl
@[simp] theorem State.setEs_pc (s : State) (e : EngineState) : (s.setEs e).pc = s.pc := rfl
@[simp] theorem State.setEs_sp (s : State) (e : EngineState) : (s.setEs e).sp = s.sp := rfl
@[simp] theorem State.setEs_stack (s : State) (e : EngineState) : (s.setEs e).stack = s.stack := rfl
@[simp] theorem State.setEs_mem (s : State) (e : EngineState) : (s.setEs e).mem = s.mem := rfl
@[simp] theorem State.setEs_es (s : State) (e : EngineState) : (s.setEs e).es = e := rfl
@[simp] theorem State.setEs_out (s : State) (e : EngineState) : (s.setEs e).out = s.out := rfl
@[simp] theorem State.setEs_booting (s : State) (e : EngineState) : (s.setEs e).booting = s.booting := rfl
@[simp] theorem State.setEs_params (s : State) (e : EngineState) : (s.setEs e).params = s.params := rfl
@[simp] theorem State.setEs_ports (s : State) (e : EngineState) : (s.setEs e).ports = s.ports := rfl

/-! ### `advance` -/

@[simp] theorem State.advance_v (s : State) : (s.advance).v = s.v := rfl
@[simp] theorem State.advance_i (s : State) : (s.advance).i = s.i := rfl
@[simp] theorem State.advance_dt (s : State) : (s.advance).dt = s.dt := rfl
@[simp] theorem State.advance_st (s : State) : (s.advance).st = s.st := rfl
@[simp] theorem State.advance_pc (s : State) : (s.advance).pc = s.pc + 2 := rfl
@[simp] theorem State.advance_sp (s : State) : (s.advance).sp = s.sp := rfl
@[simp] theorem State.advance_stack (s : State) : (s.advance).stack = s.stack := rfl
@[simp] theorem State.advance_mem (s : State) : (s.advance).mem = s.mem := rfl
@[simp] theorem State.advance_es (s : State) : (s.advance).es = s.es := rfl
@[simp] theorem State.advance_out (s : State) : (s.advance).out = s.out := rfl
@[simp] theorem State.advance_booting (s : State) : (s.advance).booting = s.booting := rfl
@[simp] theorem State.advance_params (s : State) : (s.advance).params = s.params := rfl
@[simp] theorem State.advance_ports (s : State) : (s.advance).ports = s.ports := rfl

/-! ### `emit` -/

@[simp] theorem State.emit_v (s : State) (e : Effect) : (s.emit e).v = s.v := rfl
@[simp] theorem State.emit_i (s : State) (e : Effect) : (s.emit e).i = s.i := rfl
@[simp] theorem State.emit_dt (s : State) (e : Effect) : (s.emit e).dt = s.dt := rfl
@[simp] theorem State.emit_st (s : State) (e : Effect) : (s.emit e).st = s.st := rfl
@[simp] theorem State.emit_pc (s : State) (e : Effect) : (s.emit e).pc = s.pc := rfl
@[simp] theorem State.emit_sp (s : State) (e : Effect) : (s.emit e).sp = s.sp := rfl
@[simp] theorem State.emit_stack (s : State) (e : Effect) : (s.emit e).stack = s.stack := rfl
@[simp] theorem State.emit_mem (s : State) (e : Effect) : (s.emit e).mem = s.mem := rfl
@[simp] theorem State.emit_es (s : State) (e : Effect) : (s.emit e).es = s.es := rfl
@[simp] theorem State.emit_out (s : State) (e : Effect) : (s.emit e).out = { s.out with effects := s.out.effects ++ [e] } := rfl
@[simp] theorem State.emit_booting (s : State) (e : Effect) : (s.emit e).booting = s.booting := rfl
@[simp] theorem State.emit_params (s : State) (e : Effect) : (s.emit e).params = s.params := rfl
@[simp] theorem State.emit_ports (s : State) (e : Effect) : (s.emit e).ports = s.ports := rfl

/-! ### `raise` -/

@[simp] theorem State.raise_v (s : State) (e : EngineError) : (s.raise e).v = s.v := rfl
@[simp] theorem State.raise_i (s : State) (e : EngineError) : (s.raise e).i = s.i := rfl
@[simp] theorem State.raise_dt (s : State) (e : EngineError) : (s.raise e).dt = s.dt := rfl
@[simp] theorem State.raise_st (s : State) (e : EngineError) : (s.raise e).st = s.st := rfl
@[simp] theorem State.raise_pc (s : State) (e : EngineError) : (s.raise e).pc = s.pc := rfl
@[simp] theorem State.raise_sp (s : State) (e : EngineError) : (s.raise e).sp = s.sp := rfl
@[simp] theorem State.raise_stack (s : State) (e : EngineError) : (s.raise e).stack = s.stack := rfl
@[simp] theorem State.raise_mem (s : State) (e : EngineError) : (s.raise e).mem = s.mem := rfl
@[simp] theorem State.raise_es (s : State) (e : EngineError) : (s.raise e).es = .halted (.error e) := rfl
@[simp] theorem State.raise_out (s : State) (e : EngineError) : (s.raise e).out = { effects := [], report := some e } := rfl
@[simp] theorem State.raise_booting (s : State) (e : EngineError) : (s.raise e).booting = s.booting := rfl
@[simp] theorem State.raise_params (s : State) (e : EngineError) : (s.raise e).params = s.params := rfl
@[simp] theorem State.raise_ports (s : State) (e : EngineError) : (s.raise e).ports = s.ports := rfl

/-! ### `beginStep` -/

@[simp] theorem State.beginStep_v (s : State) : (s.beginStep).v = s.v := rfl
@[simp] theorem State.beginStep_i (s : State) : (s.beginStep).i = s.i := rfl
@[simp] theorem State.beginStep_dt (s : State) : (s.beginStep).dt = s.dt := rfl
@[simp] theorem State.beginStep_st (s : State) : (s.beginStep).st = s.st := rfl
@[simp] theorem State.beginStep_pc (s : State) : (s.beginStep).pc = s.pc := rfl
@[simp] theorem State.beginStep_sp (s : State) : (s.beginStep).sp = s.sp := rfl
@[simp] theorem State.beginStep_stack (s : State) : (s.beginStep).stack = s.stack := rfl
@[simp] theorem State.beginStep_mem (s : State) : (s.beginStep).mem = s.mem := rfl
@[simp] theorem State.beginStep_es (s : State) : (s.beginStep).es = s.es := rfl
@[simp] theorem State.beginStep_out (s : State) : (s.beginStep).out = { effects := [], report := none } := rfl
@[simp] theorem State.beginStep_booting (s : State) : (s.beginStep).booting = false := rfl
@[simp] theorem State.beginStep_params (s : State) : (s.beginStep).params = s.params := rfl
@[simp] theorem State.beginStep_ports (s : State) : (s.beginStep).ports = s.ports := rfl

/-! ### `storeBytes` -/

@[simp] theorem State.storeBytes_v (s : State) (a : Nat) (bs : List Byte) : (s.storeBytes a bs).v = s.v := rfl
@[simp] theorem State.storeBytes_i (s : State) (a : Nat) (bs : List Byte) : (s.storeBytes a bs).i = s.i := rfl
@[simp] theorem State.storeBytes_dt (s : State) (a : Nat) (bs : List Byte) : (s.storeBytes a bs).dt = s.dt := rfl
@[simp] theorem State.storeBytes_st (s : State) (a : Nat) (bs : List Byte) : (s.storeBytes a bs).st = s.st := rfl
@[simp] theorem State.storeBytes_pc (s : State) (a : Nat) (bs : List Byte) : (s.storeBytes a bs).pc = s.pc := rfl
@[simp] theorem State.storeBytes_sp (s : State) (a : Nat) (bs : List Byte) : (s.storeBytes a bs).sp = s.sp := rfl
@[simp] theorem State.storeBytes_stack (s : State) (a : Nat) (bs : List Byte) : (s.storeBytes a bs).stack = s.stack := rfl
@[simp] theorem State.storeBytes_mem (s : State) (a : Nat) (bs : List Byte) : (s.storeBytes a bs).mem = Memory.writeList s.params a bs s.mem := rfl
@[simp] theorem State.storeBytes_es (s : State) (a : Nat) (bs : List Byte) : (s.storeBytes a bs).es = s.es := rfl
@[simp] theorem State.storeBytes_out (s : State) (a : Nat) (bs : List Byte) : (s.storeBytes a bs).out = s.out := rfl
@[simp] theorem State.storeBytes_booting (s : State) (a : Nat) (bs : List Byte) : (s.storeBytes a bs).booting = s.booting := rfl
@[simp] theorem State.storeBytes_params (s : State) (a : Nat) (bs : List Byte) : (s.storeBytes a bs).params = s.params := rfl
@[simp] theorem State.storeBytes_ports (s : State) (a : Nat) (bs : List Byte) : (s.storeBytes a bs).ports = s.ports := rfl

/-! ### `countDraw` -/

@[simp] theorem State.countDraw_v (s : State) : (s.countDraw).v = s.v := rfl
@[simp] theorem State.countDraw_i (s : State) : (s.countDraw).i = s.i := rfl
@[simp] theorem State.countDraw_dt (s : State) : (s.countDraw).dt = s.dt := rfl
@[simp] theorem State.countDraw_st (s : State) : (s.countDraw).st = s.st := rfl
@[simp] theorem State.countDraw_pc (s : State) : (s.countDraw).pc = s.pc := rfl
@[simp] theorem State.countDraw_sp (s : State) : (s.countDraw).sp = s.sp := rfl
@[simp] theorem State.countDraw_stack (s : State) : (s.countDraw).stack = s.stack := rfl
@[simp] theorem State.countDraw_mem (s : State) : (s.countDraw).mem = s.mem := rfl
@[simp] theorem State.countDraw_es (s : State) : (s.countDraw).es = s.es := rfl
@[simp] theorem State.countDraw_out (s : State) : (s.countDraw).out = s.out := rfl
@[simp] theorem State.countDraw_booting (s : State) : (s.countDraw).booting = s.booting := rfl
@[simp] theorem State.countDraw_params (s : State) : (s.countDraw).params = s.params := rfl
@[simp] theorem State.countDraw_ports (s : State) : (s.countDraw).ports = { s.ports with draws := s.ports.draws + 1 } := rfl

/-! ### `requestDisplay` -/

@[simp] theorem State.requestDisplay_v (s : State) (c : RefDisplay → RefDisplay) (e : Effect) : (s.requestDisplay c e).v = s.v := rfl
@[simp] theorem State.requestDisplay_i (s : State) (c : RefDisplay → RefDisplay) (e : Effect) : (s.requestDisplay c e).i = s.i := rfl
@[simp] theorem State.requestDisplay_dt (s : State) (c : RefDisplay → RefDisplay) (e : Effect) : (s.requestDisplay c e).dt = s.dt := rfl
@[simp] theorem State.requestDisplay_st (s : State) (c : RefDisplay → RefDisplay) (e : Effect) : (s.requestDisplay c e).st = s.st := rfl
@[simp] theorem State.requestDisplay_pc (s : State) (c : RefDisplay → RefDisplay) (e : Effect) : (s.requestDisplay c e).pc = s.pc := rfl
@[simp] theorem State.requestDisplay_sp (s : State) (c : RefDisplay → RefDisplay) (e : Effect) : (s.requestDisplay c e).sp = s.sp := rfl
@[simp] theorem State.requestDisplay_stack (s : State) (c : RefDisplay → RefDisplay) (e : Effect) : (s.requestDisplay c e).stack = s.stack := rfl
@[simp] theorem State.requestDisplay_mem (s : State) (c : RefDisplay → RefDisplay) (e : Effect) : (s.requestDisplay c e).mem = s.mem := rfl
@[simp] theorem State.requestDisplay_es (s : State) (c : RefDisplay → RefDisplay) (e : Effect) : (s.requestDisplay c e).es = s.es := rfl
@[simp] theorem State.requestDisplay_out (s : State) (c : RefDisplay → RefDisplay) (e : Effect) : (s.requestDisplay c e).out = { s.out with effects := s.out.effects ++ [e] } := rfl
@[simp] theorem State.requestDisplay_booting (s : State) (c : RefDisplay → RefDisplay) (e : Effect) : (s.requestDisplay c e).booting = s.booting := rfl
@[simp] theorem State.requestDisplay_params (s : State) (c : RefDisplay → RefDisplay) (e : Effect) : (s.requestDisplay c e).params = s.params := rfl
@[simp] theorem State.requestDisplay_ports (s : State) (c : RefDisplay → RefDisplay) (e : Effect) : (s.requestDisplay c e).ports = { s.ports with display := s.ports.display.request c } := rfl

/-! ### `tickTimers` -/

@[simp] theorem State.tickTimers_v (s : State) : (s.tickTimers).v = s.v := rfl
@[simp] theorem State.tickTimers_i (s : State) : (s.tickTimers).i = s.i := rfl
@[simp] theorem State.tickTimers_dt (s : State) : (s.tickTimers).dt = timerTick s.dt := rfl
@[simp] theorem State.tickTimers_st (s : State) : (s.tickTimers).st = timerTick s.st := rfl
@[simp] theorem State.tickTimers_pc (s : State) : (s.tickTimers).pc = s.pc := rfl
@[simp] theorem State.tickTimers_sp (s : State) : (s.tickTimers).sp = s.sp := rfl
@[simp] theorem State.tickTimers_stack (s : State) : (s.tickTimers).stack = s.stack := rfl
@[simp] theorem State.tickTimers_mem (s : State) : (s.tickTimers).mem = s.mem := rfl
@[simp] theorem State.tickTimers_es (s : State) : (s.tickTimers).es = s.es := rfl
@[simp] theorem State.tickTimers_out (s : State) : (s.tickTimers).out = s.out := rfl
@[simp] theorem State.tickTimers_booting (s : State) : (s.tickTimers).booting = false := rfl
@[simp] theorem State.tickTimers_params (s : State) : (s.tickTimers).params = s.params := rfl
@[simp] theorem State.tickTimers_ports (s : State) : (s.tickTimers).ports = s.ports := rfl

/-! ### `askRandom`: only the ports change -/

@[simp] theorem State.askRandom_v (s : State) : (s.askRandom).2.v = s.v := by
  unfold State.askRandom; split <;> rfl
@[simp] theorem State.askRandom_i (s : State) : (s.askRandom).2.i = s.i := by
  unfold State.askRandom; split <;> rfl
@[simp] theorem State.askRandom_dt (s : State) : (s.askRandom).2.dt = s.dt := by
  unfold State.askRandom; split <;> rfl
@[simp] theorem State.askRandom_st (s : State) : (s.askRandom).2.st = s.st := by
  unfold State.askRandom; split <;> rfl
@[simp] theorem State.askRandom_pc (s : State) : (s.askRandom).2.pc = s.pc := by
  unfold State.askRandom; split <;> rfl
@[simp] theorem State.askRandom_sp (s : State) : (s.askRandom).2.sp = s.sp := by
  unfold State.askRandom; split <;> rfl
@[simp] theorem State.askRandom_stack (s : State) : (s.askRandom).2.stack = s.stack := by
  unfold State.askRandom; split <;> rfl
@[simp] theorem State.askRandom_mem (s : State) : (s.askRandom).2.mem = s.mem := by
  unfold State.askRandom; split <;> rfl
@[simp] theorem State.askRandom_es (s : State) : (s.askRandom).2.es = s.es := by
  unfold State.askRandom; split <;> rfl
@[simp] theorem State.askRandom_out (s : State) : (s.askRandom).2.out = s.out := by
  unfold State.askRandom; split <;> rfl
@[simp] theorem State.askRandom_booting (s : State) : (s.askRandom).2.booting = s.booting := by
  unfold State.askRandom; split <;> rfl
@[simp] theorem State.askRandom_params (s : State) : (s.askRandom).2.params = s.params := by
  unfold State.askRandom; split <;> rfl

/-! ### `askKey`: only the ports change -/

@[simp] theorem State.askKey_v (s : State) (k : Nibble) : (s.askKey k).2.v = s.v := by
  unfold State.askKey; split <;> rfl
@[simp] theorem State.askKey_i (s : State) (k : Nibble) : (s.askKey k).2.i = s.i := by
  unfold State.askKey; split <;> rfl
@[simp] theorem State.askKey_dt (s : State) (k : Nibble) : (s.askKey k).2.dt = s.dt := by
  unfold State.askKey; split <;> rfl
@[simp] theorem State.askKey_st (s : State) (k : Nibble) : (s.askKey k).2.st = s.st := by
  unfold State.askKey; split <;> rfl
@[simp] theorem State.askKey_pc (s : State) (k : Nibble) : (s.askKey k).2.pc = s.pc := by
  unfold State.askKey; split <;> rfl
@[simp] theorem State.askKey_sp (s : State) (k : Nibble) : (s.askKey k).2.sp = s.sp := by
  unfold State.askKey; split <;> rfl
@[simp] theorem State.askKey_stack (s : State) (k : Nibble) : (s.askKey k).2.stack = s.stack := by
  unfold State.askKey; split <;> rfl
@[simp] theorem State.askKey_mem (s : State) (k : Nibble) : (s.askKey k).2.mem = s.mem := by
  unfold State.askKey; split <;> rfl
@[simp] theorem State.askKey_es (s : State) (k : Nibble) : (s.askKey k).2.es = s.es := by
  unfold State.askKey; split <;> rfl
@[simp] theorem State.askKey_out (s : State) (k : Nibble) : (s.askKey k).2.out = s.out := by
  unfold State.askKey; split <;> rfl
@[simp] theorem State.askKey_booting (s : State) (k : Nibble) : (s.askKey k).2.booting = s.booting := by
  unfold State.askKey; split <;> rfl
@[simp] theorem State.askKey_params (s : State) (k : Nibble) : (s.askKey k).2.params = s.params := by
  unfold State.askKey; split <;> rfl

/-! ### `askResolution`: only the ports change -/

@[simp] theorem State.askResolution_v (s : State) : (s.askResolution).2.v = s.v := by
  unfold State.askResolution; split <;> rfl
@[simp] theorem State.askResolution_i (s : State) : (s.askResolution).2.i = s.i := by
  unfold State.askResolution; split <;> rfl
@[simp] theorem State.askResolution_dt (s : State) : (s.askResolution).2.dt = s.dt := by
  unfold State.askResolution; split <;> rfl
@[simp] theorem State.askResolution_st (s : State) : (s.askResolution).2.st = s.st := by
  unfold State.askResolution; split <;> rfl
@[simp] theorem State.askResolution_pc (s : State) : (s.askResolution).2.pc = s.pc := by
  unfold State.askResolution; split <;> rfl
@[simp] theorem State.askResolution_sp (s : State) : (s.askResolution).2.sp = s.sp := by
  unfold State.askResolution; split <;> rfl
@[simp] theorem State.askResolution_stack (s : State) : (s.askResolution).2.stack = s.stack := by
  unfold State.askResolution; split <;> rfl
@[simp] theorem State.askResolution_mem (s : State) : (s.askResolution).2.mem = s.mem := by
  unfold State.askResolution; split <;> rfl
@[simp] theorem State.askResolution_es (s : State) : (s.askResolution).2.es = s.es := by
  unfold State.askResolution; split <;> rfl
@[simp] theorem State.askResolution_out (s : State) : (s.askResolution).2.out = s.out := by
  unfold State.askResolution; split <;> rfl
@[simp] theorem State.askResolution_booting (s : State) : (s.askResolution).2.booting = s.booting := by
  unfold State.askResolution; split <;> rfl
@[simp] theorem State.askResolution_params (s : State) : (s.askResolution).2.params = s.params := by
  unfold State.askResolution; split <;> rfl

/-! ### `askSetPixel`: only the ports change -/

@[simp] theorem State.askSetPixel_v (s : State) (px py : Nat) : (s.askSetPixel px py).2.v = s.v := by
  unfold State.askSetPixel; split <;> rfl
@[simp] theorem State.askSetPixel_i (s : State) (px py : Nat) : (s.askSetPixel px py).2.i = s.i := by
  unfold State.askSetPixel; split <;> rfl
@[simp] theorem State.askSetPixel_dt (s : State) (px py : Nat) : (s.askSetPixel px py).2.dt = s.dt := by
  unfold State.askSetPixel; split <;> rfl
@[simp] theorem State.askSetPixel_st (s : State) (px py : Nat) : (s.askSetPixel px py).2.st = s.st := by
  unfold State.askSetPixel; split <;> rfl
@[simp] theorem State.askSetPixel_pc (s : State) (px py : Nat) : (s.askSetPixel px py).2.pc = s.pc := by
  unfold State.askSetPixel; split <;> rfl
@[simp] theorem State.askSetPixel_sp (s : State) (px py : Nat) : (s.askSetPixel px py).2.sp = s.sp := by
  unfold State.askSetPixel; split <;> rfl
@[simp] theorem State.askSetPixel_stack (s : State) (px py : Nat) : (s.askSetPixel px py).2.stack = s.stack := by
  unfold State.askSetPixel; split <;> rfl
@[simp] theorem State.askSetPixel_mem (s : State) (px py : Nat) : (s.askSetPixel px py).2.mem = s.mem := by
  unfold State.askSetPixel; split <;> rfl
@[simp] theorem State.askSetPixel_es (s : State) (px py : Nat) : (s.askSetPixel px py).2.es = s.es := by
  unfold State.askSetPixel; split <;> rfl
@[simp] theorem State.askSetPixel_out (s : State) (px py : Nat) : (s.askSetPixel px py).2.out = s.out := by
  unfold State.askSetPixel; split <;> rfl
@[simp] theorem State.askSetPixel_booting (s : State) (px py : Nat) : (s.askSetPixel px py).2.booting = s.booting := by
  unfold State.askSetPixel; split <;> rfl
@[simp] theorem State.askSetPixel_params (s : State) (px py : Nat) : (s.askSetPixel px py).2.params = s.params := by
  unfold State.askSetPixel; split <;> rfl

/-! ### `togglePixel` and `togglePixels`: only the ports and the effects change -/

@[simp] theorem State.togglePixel_v (s : State) (px py : Nat) : (s.togglePixel px py).2.v = s.v := by
  simp [State.togglePixel]
@[simp] theorem State.togglePixel_i (s : State) (px py : Nat) : (s.togglePixel px py).2.i = s.i := by
  simp [State.togglePixel]
@[simp] theorem State.togglePixel_dt (s : State) (px py : Nat) : (s.togglePixel px py).2.dt = s.dt := by
  simp [State.togglePixel]
@[simp] theorem State.togglePixel_st (s : State) (px py : Nat) : (s.togglePixel px py).2.st = s.st := by
  simp [State.togglePixel]
@[simp] theorem State.togglePixel_pc (s : State) (px py : Nat) : (s.togglePixel px py).2.pc = s.pc := by
  simp [State.togglePixel]
@[simp] theorem State.togglePixel_sp (s : State) (px py : Nat) : (s.togglePixel px py).2.sp = s.sp := by
  simp [State.togglePixel]
@[simp] theorem State.togglePixel_stack (s : State) (px py : Nat) : (s.togglePixel px py).2.stack = s.stack := by
  simp [State.togglePixel]
@[simp] theorem State.togglePixel_mem (s : State) (px py : Nat) : (s.togglePixel px py).2.mem = s.mem := by
  simp [State.togglePixel]
@[simp] theorem State.togglePixel_es (s : State) (px py : Nat) : (s.togglePixel px py).2.es = s.es := by
  simp [State.togglePixel]
@[simp] theorem State.togglePixel_booting (s : State) (px py : Nat) : (s.togglePixel px py).2.booting = s.booting := by
  simp [State.togglePixel]
@[simp] theorem State.togglePixel_params (s : State) (px py : Nat) : (s.togglePixel px py).2.params = s.params := by
  simp [State.togglePixel]
@[simp] theorem State.togglePixels_v (ps : List (Nat × Nat)) (s : State) :
    (s.togglePixels ps).2.v = s.v := by
  induction ps generalizing s with
  | nil => rfl
  | cons p ps ih => simp [State.togglePixels, ih]
@[simp] theorem State.togglePixels_i (ps : List (Nat × Nat)) (s : State) :
    (s.togglePixels ps).2.i = s.i := by
  induction ps generalizing s with
  | nil => rfl
  | cons p ps ih => simp [State.togglePixels, ih]
@[simp] theorem State.togglePixels_dt (ps : List (Nat × Nat)) (s : State) :
    (s.togglePixels ps).2.dt = s.dt := by
  induction ps generalizing s with
  | nil => rfl
  | cons p ps ih => simp [State.togglePixels, ih]
@[simp] theorem State.togglePixels_st (ps : List (Nat × Nat)) (s : State) :
    (s.togglePixels ps).2.st = s.st := by
  induction ps generalizing s with
  | nil => rfl
  | cons p ps ih => simp [State.togglePixels, ih]
@[simp] theorem State.togglePixels_pc (ps : List (Nat × Nat)) (s : State) :
    (s.togglePixels ps).2.pc = s.pc := by
  induction ps generalizing s with
  | nil => rfl
  | cons p ps ih => simp [State.togglePixels, ih]
@[simp] theorem State.togglePixels_sp (ps : List (Nat × Nat)) (s : State) :
    (s.togglePixels ps).2.sp = s.sp := by
  induction ps generalizing s with
  | nil => rfl
  | cons p ps ih => simp [State.togglePixels, ih]
@[simp] theorem State.togglePixels_stack (ps : List (Nat × Nat)) (s : State) :
    (s.togglePixels ps).2.stack = s.stack := by
  induction ps generalizing s with
  | nil => rfl
  | cons p ps ih => simp [State.togglePixels, ih]
@[simp] theorem State.togglePixels_mem (ps : List (Nat × Nat)) (s : State) :
    (s.togglePixels ps).2.mem = s.mem := by
  induction ps generalizing s with
  | nil => rfl
  | cons p ps ih => simp [State.togglePixels, ih]
@[simp] theorem State.togglePixels_es (ps : List (Nat × Nat)) (s : State) :
    (s.togglePixels ps).2.es = s.es := by
  induction ps generalizing s with
  | nil => rfl
  | cons p ps ih => simp [State.togglePixels, ih]
@[simp] theorem State.togglePixels_booting (ps : List (Nat × Nat)) (s : State) :
    (s.togglePixels ps).2.booting = s.booting := by
  induction ps generalizing s with
  | nil => rfl
  | cons p ps ih => simp [State.togglePixels, ih]
@[simp] theorem State.togglePixels_params (ps : List (Nat × Nat)) (s : State) :
    (s.togglePixels ps).2.params = s.params := by
  induction ps generalizing s with
  | nil => rfl
  | cons p ps ih => simp [State.togglePixels, ih]

/-! ### `skipIf`: only the program counter changes -/

@[simp] theorem State.skipIf_v (s : State) (c : Bool) : (s.skipIf c).v = s.v := by
  cases c <;> rfl
@[simp] theorem State.skipIf_i (s : State) (c : Bool) : (s.skipIf c).i = s.i := by
  cases c <;> rfl
@[simp] theorem State.skipIf_dt (s : State) (c : Bool) : (s.skipIf c).dt = s.dt := by
  cases c <;> rfl
@[simp] theorem State.skipIf_st (s : State) (c : Bool) : (s.skipIf c).st = s.st := by
  cases c <;> rfl
@[simp] theorem State.skipIf_pc (s : State) (c : Bool) :
    (s.skipIf c).pc = if c then s.pc + 2 else s.pc := by
  cases c <;> rfl
@[simp] theorem State.skipIf_sp (s : State) (c : Bool) : (s.skipIf c).sp = s.sp := by
  cases c <;> rfl
@[simp] theorem State.skipIf_stack (s : State) (c : Bool) : (s.skipIf c).stack = s.stack := by
  cases c <;> rfl
@[simp] theorem State.skipIf_mem (s : State) (c : Bool) : (s.skipIf c).mem = s.mem := by
  cases c <;> rfl
@[simp] theorem State.skipIf_es (s : State) (c : Bool) : (s.skipIf c).es = s.es := by
  cases c <;> rfl
@[simp] theorem State.skipIf_out (s : State) (c : Bool) : (s.skipIf c).out = s.out := by
  cases c <;> rfl
@[simp] theorem State.skipIf_booting (s : State) (c : Bool) : (s.skipIf c).booting = s.booting := by
  cases c <;> rfl
@[simp] theorem State.skipIf_params (s : State) (c : Bool) : (s.skipIf c).params = s.params := by
  cases c <;> rfl
@[simp] theorem State.skipIf_ports (s : State) (c : Bool) : (s.skipIf c).ports = s.ports := by
  cases c <;> rfl

/-- Two states are equal when all their fields are. -/
@[ext] theorem State.ext_fields {s t : State} (hv : s.v = t.v) (hi : s.i = t.i) (hdt : s.dt = t.dt) (hst : s.st = t.st)
    (hpc : s.pc = t.pc) (hsp : s.sp = t.sp) (hstack : s.stack = t.stack) (hmem : s.mem = t.mem) (hes : s.es = t.es)
    (hout : s.out = t.out) (hbooting : s.booting = t.booting) (hparams : s.params = t.params)
    (hports : s.ports = t.ports) : s = t := by
  cases s; cases t; simp_all

end Sys2Proof.Machine
end

