-- ==== Sys2Proof/Laws/Memory.lean ====
section
/-! SUPPORT. The laws of memory: read after write, the canonical form is kept, the bounds check. -/

namespace Sys2Proof.Machine

theorem Memory.read_of_absent (p : Params) (a : Nat) (m : Memory) (h : ∀ c ∈ m, c.1 ≠ a) :
    Memory.read p a m = Memory.unlisted p a := by
  induction m with
  | nil => rfl
  | cons c m ih =>
    have hc : c.1 ≠ a := h c (by simp)
    simp only [Memory.read, if_neg hc]
    exact ih fun d hd => h d (by simp [hd])

theorem Memory.read_insertCell_same (p : Params) (a : Nat) (b : Byte) (m : Memory) (h : ∀ c ∈ m, c.1 ≠ a) :
    Memory.read p a (Memory.insertCell (a, b) m) = b := by
  induction m with
  | nil => simp [Memory.insertCell, Memory.read]
  | cons c m ih =>
    have hc : c.1 ≠ a := h c (by simp)
    have hm := ih fun d hd => h d (by simp [hd])
    by_cases hlt : a < c.1 <;> simp [Memory.insertCell, Memory.read, hlt, hc, hm]

theorem Memory.read_insertCell_other (p : Params) (a a' : Nat) (b : Byte) (m : Memory) (h : a' ≠ a) :
    Memory.read p a' (Memory.insertCell (a, b) m) = Memory.read p a' m := by
  induction m with
  | nil => simp [Memory.insertCell, Memory.read, h.symm]
  | cons c m ih =>
    by_cases hlt : a < c.1 <;> simp [Memory.insertCell, Memory.read, hlt, h.symm, ih]

theorem Memory.read_filter_other (p : Params) (a a' : Nat) (m : Memory) (h : a' ≠ a) :
    Memory.read p a' (m.filter fun c => c.1 != a) = Memory.read p a' m := by
  induction m with
  | nil => rfl
  | cons c m ih =>
    by_cases hc : c.1 = a
    · simp [hc, ih, Memory.read, h.symm]
    · simp [hc, ih, Memory.read]

/-- A read after a write: the value written at its address, the old value everywhere else. -/
theorem Memory.read_write (p : Params) (a a' : Nat) (b : Byte) (m : Memory) :
    Memory.read p a' (Memory.write p a b m) = if a' = a then b else Memory.read p a' m := by
  have habs : ∀ c ∈ m.filter (fun c => c.1 != a), c.1 ≠ a := by simp
  unfold Memory.write
  by_cases h : a' = a
  · subst h
    by_cases hb : b = Memory.unlisted p a'
    · simp [← hb, Memory.read_of_absent p a' _ habs]
    · simp [hb, Memory.read_insertCell_same p a' b _ habs]
  · by_cases hb : b = Memory.unlisted p a
    · simp [h, ← hb, Memory.read_filter_other]
    · simp [h, hb, Memory.read_insertCell_other, Memory.read_filter_other]

/-- A read after a run of writes at ascending addresses. -/
theorem Memory.read_writeList (p : Params) (a a' : Nat) (bs : List Byte) (m : Memory) :
    Memory.read p a' (Memory.writeList p a bs m) =
      if h : a ≤ a' ∧ a' - a < bs.length then bs[a' - a] else Memory.read p a' m := by
  induction bs generalizing a m with
  | nil => simp [Memory.writeList]
  | cons b bs ih =>
    rw [Memory.writeList, ih, Memory.read_write]
    by_cases h1 : a' = a
    · subst h1
      simp
    · by_cases h2 : a + 1 ≤ a' ∧ a' - (a + 1) < bs.length
      · have h3 : a ≤ a' ∧ a' - a < (b :: bs).length := by simp only [List.length_cons]; omega
        have h4 : a' - a = (a' - (a + 1)) + 1 := by omega
        rw [dif_pos h2, dif_pos h3]
        simp [h4]
      · have h3 : ¬ (a ≤ a' ∧ a' - a < (b :: bs).length) := by simp only [List.length_cons]; omega
        rw [dif_neg h2, dif_neg h3, if_neg h1]

/-! ## The canonical form -/

theorem Memory.wf_cons (p : Params) (c : Host.Cell) (m : Memory) :
    Memory.wf p (c :: m) = true ↔
      c.1 < 4096 ∧ c.2 ≠ Memory.unlisted p c.1 ∧ (∀ d ∈ m, c.1 < d.1) ∧ Memory.wf p m = true := by
  simp [Memory.wf, and_assoc]

theorem Memory.wf_filter (p : Params) (f : Host.Cell → Bool) (m : Memory) (h : Memory.wf p m = true) :
    Memory.wf p (m.filter f) = true := by
  induction m with
  | nil => rfl
  | cons c m ih =>
    obtain ⟨h1, h2, h3, h4⟩ := (Memory.wf_cons p c m).1 h
    by_cases hf : f c = true
    · rw [List.filter_cons_of_pos hf, Memory.wf_cons]
      exact ⟨h1, h2, fun d hd => h3 d (List.mem_filter.1 hd).1, ih h4⟩
    · rw [List.filter_cons_of_neg hf]; exact ih h4

theorem Memory.mem_insertCell (c d : Host.Cell) (m : Memory) : d ∈ Memory.insertCell c m ↔ d = c ∨ d ∈ m := by
  induction m with
  | nil => simp [Memory.insertCell]
  | cons e m ih =>
    by_cases h : c.1 < e.1
    · simp [Memory.insertCell, h]
    · simp [Memory.insertCell, h, ih]; tauto

theorem Memory.wf_insertCell (p : Params) (c : Host.Cell) (m : Memory) (h : Memory.wf p m = true) (hc : c.1 < 4096)
    (hv : c.2 ≠ Memory.unlisted p c.1) (hn : ∀ d ∈ m, d.1 ≠ c.1) : Memory.wf p (Memory.insertCell c m) = true := by
  induction m with
  | nil => simp [Memory.insertCell, hc, hv, Memory.wf]
  | cons e m ih =>
    obtain ⟨h1, h2, h3, h4⟩ := (Memory.wf_cons p e m).1 h
    by_cases hlt : c.1 < e.1
    · simp only [Memory.insertCell, if_pos hlt]
      refine (Memory.wf_cons p c _).2 ⟨hc, hv, ?_, h⟩
      intro d hd
      rcases List.mem_cons.1 hd with rfl | hd
      · exact hlt
      · exact lt_trans hlt (h3 d hd)
    · simp only [Memory.insertCell, if_neg hlt]
      refine (Memory.wf_cons p e _).2 ⟨h1, h2, ?_, ih h4 fun d hd => hn d (by simp [hd])⟩
      intro d hd
      rcases (Memory.mem_insertCell c d m).1 hd with rfl | hd
      · have := hn e (by simp); omega
      · exact h3 d hd

/-- A write inside the store keeps the canonical form. -/
theorem Memory.wf_write (p : Params) (a : Nat) (b : Byte) (m : Memory) (ha : a < 4096) (h : Memory.wf p m = true) :
    Memory.wf p (Memory.write p a b m) = true := by
  unfold Memory.write
  have hf := Memory.wf_filter p (fun c => c.1 != a) m h
  by_cases hb : b = Memory.unlisted p a
  · simpa [← hb] using hf
  · simp only [if_neg hb]
    exact Memory.wf_insertCell p (a, b) _ hf ha hb (by simp)

/-- So does a run of writes inside the store. -/
theorem Memory.wf_writeList (p : Params) (a : Nat) (bs : List Byte) (m : Memory) (ha : bs = [] ∨ a + bs.length ≤ 4096)
    (h : Memory.wf p m = true) : Memory.wf p (Memory.writeList p a bs m) = true := by
  induction bs generalizing a m with
  | nil => exact h
  | cons b bs ih =>
    simp only [reduceCtorEq, List.length_cons, false_or] at ha
    exact ih (a + 1) _ (Or.inr (by omega)) (Memory.wf_write p a b m (by omega) h)

theorem Memory.wf_reset (p : Params) : Memory.wf p (State.resetWith p).mem = true := rfl

/-- In canonical form, equal readings are equal data. -/
theorem Memory.ext_of_wf (p : Params) (m m' : Memory) (h : Memory.wf p m = true) (h' : Memory.wf p m' = true)
    (hr : ∀ a, Memory.read p a m = Memory.read p a m') : m = m' := by
  induction m generalizing m' with
  | nil =>
    cases m' with
    | nil => rfl
    | cons d m' =>
      obtain ⟨_, h2, _, _⟩ := (Memory.wf_cons p d m').1 h'
      exact absurd (by simpa [Memory.read] using (hr d.1).symm) h2
  | cons c m ih =>
    obtain ⟨_, c2, c3, c4⟩ := (Memory.wf_cons p c m).1 h
    cases m' with
    | nil => exact absurd (by simpa [Memory.read] using hr c.1) c2
    | cons d m' =>
      obtain ⟨_, d2, d3, d4⟩ := (Memory.wf_cons p d m').1 h'
      have hcm : ∀ a, a ≤ c.1 → Memory.read p a m = Memory.unlisted p a := fun a ha =>
        Memory.read_of_absent p a m fun e he => by have := c3 e he; omega
      have hdm : ∀ a, a ≤ d.1 → Memory.read p a m' = Memory.unlisted p a := fun a ha =>
        Memory.read_of_absent p a m' fun e he => by have := d3 e he; omega
      have hcd : c.1 = d.1 := by
        rcases lt_trichotomy c.1 d.1 with hlt | heq | hgt
        · have := hr c.1
          rw [Memory.read, if_pos rfl, Memory.read, if_neg (by omega), hdm _ (by omega)] at this
          exact absurd this c2
        · exact heq
        · have := hr d.1
          rw [Memory.read, if_neg (by omega), Memory.read, if_pos rfl, hcm _ (by omega)] at this
          exact absurd this.symm d2
      have hv : c.2 = d.2 := by
        have := hr c.1
        rwa [Memory.read, if_pos rfl, Memory.read, if_pos hcd.symm] at this
      have htail : m = m' := by
        refine ih m' c4 d4 fun a => ?_
        by_cases ha : a = c.1
        · rw [ha, hcm _ le_rfl, hdm _ (by omega)]
        · have := hr a
          rwa [Memory.read, if_neg (Ne.symm ha), Memory.read, if_neg (by omega)] at this
      rw [htail, Prod.ext hcd hv]

/-! ## Bytes of a state -/

theorem State.byteAt_of_mem_eq {s t : State} (hm : t.mem = s.mem) (hp : t.params = s.params) (a : Nat) :
    t.byteAt a = s.byteAt a := by
  simp [State.byteAt, hm, hp]

theorem State.byteAt_storeBytes (s : State) (a a' : Nat) (bs : List Byte) :
    (s.storeBytes a bs).byteAt a' = if h : a ≤ a' ∧ a' - a < bs.length then bs[a' - a] else s.byteAt a' :=
  Memory.read_writeList s.params a a' bs s.mem

@[simp] theorem State.length_bytesAt (s : State) (a n : Nat) : (s.bytesAt a n).length = n := by
  simp [State.bytesAt]

@[simp] theorem State.getElem_bytesAt (s : State) (a n k : Nat) (h : k < (s.bytesAt a n).length) :
    (s.bytesAt a n)[k] = s.byteAt (a + k) := by
  simp [State.bytesAt]

/-! ## The bounds check -/

theorem checkRange_ok {a n : Nat} (h : n = 0 ∨ a + n ≤ 4096) : checkRange a n = .ok () := by
  simp [checkRange, h]

theorem checkRange_error {a n : Nat} (hn : n ≠ 0) (h : 4096 < a + n) :
    checkRange a n = .error (.memoryError (max a 4096)) := by
  have : ¬ (n = 0 ∨ a + n ≤ 4096) := by omega
  simp [checkRange, this]

/-- What a store of a range answers. -/
theorem State.storeRange_eq (s : State) (a : Nat) (bs : List Byte) :
    s.storeRange a bs =
      if bs.length = 0 ∨ a + bs.length ≤ 4096 then .ok (s.storeBytes a bs) else .error (.memoryError (max a 4096)) := by
  unfold State.storeRange checkRange; split <;> rfl

/-- What a load of a range answers. -/
theorem State.loadRange_eq (s : State) (a n : Nat) :
    s.loadRange a n =
      if n = 0 ∨ a + n ≤ 4096 then .ok (s.bytesAt a n) else .error (.memoryError (max a 4096)) := by
  unfold State.loadRange checkRange; split <;> rfl

/-- What the fetch answers: it fails only at 0xFFF (R67). -/
theorem State.fetch_eq (s : State) :
    s.fetch = if s.pc.toNat < 0xFFF then .ok (s.byteAt s.pc.toNat ++ s.byteAt (s.pc.toNat + 1))
      else .error (.memoryError 0x1000) := by
  have := s.pc.isLt
  by_cases h : s.pc.toNat < 0xFFF
  · simp [State.fetch, State.memRead2, checkRange_ok (a := s.pc.toNat) (n := 2) (by omega), h, Except.map]
  · have h' : s.pc.toNat = 0xFFF := by omega
    simp [State.fetch, State.memRead2, checkRange, h', Except.map]

@[simp] theorem State.orRaise_ok (s t : State) : s.orRaise (.ok t) = t := rfl
@[simp] theorem State.orRaise_error (s : State) (e : EngineError) : s.orRaise (.error e) = s.raise e := rfl

end Sys2Proof.Machine
end

