-- ==== Sys2Proof/Laws/Registers.lean ====
section
/-! SUPPORT. What each register operation makes `getV` read. -/

namespace Sys2Proof.Machine

theorem State.getV_of_v_eq {s t : State} (h : t.v = s.v) (x : Nibble) : t.getV x = s.getV x := by
  simp [State.getV, h]

@[simp] theorem State.getV_setV (s : State) (x y : Nibble) (b : Byte) :
    (s.setV x b).getV y = if y = x then b else s.getV y := by
  simp [State.getV, Vector.getElem_set, BitVec.toNat_inj, eq_comm]

@[simp] theorem State.getV_setVF (s : State) (f : Bool) (y : Nibble) :
    (s.setVF f).getV y = if y = 15 then flagByte f else s.getV y := by
  simp [State.setVF]

/-- The flag is written last, so it is what `V[15]` holds. -/
@[simp] theorem State.getV_setVThenFlag (s : State) (x y : Nibble) (b : Byte) (f : Bool) :
    (s.setVThenFlag x b f).getV y = if y = 15 then flagByte f else if y = x then b else s.getV y := by
  simp [State.setVThenFlag]

theorem State.getV_setFirstV (s : State) (bs : List Byte) (y : Nibble) :
    (s.setFirstV bs).getV y = bs[y.toNat]?.getD (s.getV y) := by
  have hy := y.isLt
  by_cases h : y.toNat < bs.length
  · simp [State.getV, State.setFirstV, h, hy]
  · have h' : bs.length ≤ y.toNat := by omega
    have h16 : bs.length ≤ 16 := by omega
    simp [State.getV, State.setFirstV, h, h', List.take_of_length_le h16]

@[simp] theorem State.length_firstV (s : State) (x : Nibble) : (s.firstV x).length = x.toNat + 1 := by
  have := x.isLt
  simp [State.firstV]; omega

theorem State.getElem_firstV (s : State) (x k : Nibble) (h : k.toNat < (s.firstV x).length) :
    (s.firstV x)[k.toNat] = s.getV k := by
  simp [State.firstV, State.getV]

@[simp] theorem toNat_flagByte (f : Bool) : (flagByte f).toNat = if f then 1 else 0 := by
  cases f <;> rfl

@[simp] theorem State.getV_setI (s : State) (a : Addr) (y : Nibble) : (s.setI a).getV y = s.getV y := rfl
@[simp] theorem State.getV_setPc (s : State) (a : Addr) (y : Nibble) : (s.setPc a).getV y = s.getV y := rfl
@[simp] theorem State.getV_setDt (s : State) (b : Byte) (y : Nibble) : (s.setDt b).getV y = s.getV y := rfl
@[simp] theorem State.getV_setSt (s : State) (b : Byte) (y : Nibble) : (s.setSt b).getV y = s.getV y := rfl
@[simp] theorem State.getV_setEs (s : State) (e : EngineState) (y : Nibble) : (s.setEs e).getV y = s.getV y := rfl
@[simp] theorem State.getV_emit (s : State) (e : Effect) (y : Nibble) : (s.emit e).getV y = s.getV y := rfl
@[simp] theorem State.getV_raise (s : State) (e : EngineError) (y : Nibble) : (s.raise e).getV y = s.getV y := rfl
@[simp] theorem State.getV_beginStep (s : State) (y : Nibble) : s.beginStep.getV y = s.getV y := rfl
@[simp] theorem State.getV_advance (s : State) (y : Nibble) : s.advance.getV y = s.getV y := rfl
@[simp] theorem State.getV_storeBytes (s : State) (a : Nat) (bs : List Byte) (y : Nibble) :
    (s.storeBytes a bs).getV y = s.getV y := rfl
@[simp] theorem State.getV_skipIf (s : State) (c : Bool) (y : Nibble) : (s.skipIf c).getV y = s.getV y := by
  cases c <;> rfl

end Sys2Proof.Machine
end

