-- ==== Sys2Proof/Laws/Ports.lean ====
section
/-! SUPPORT. What a query of an input port can answer and leave. -/

namespace Sys2Proof.Machine

/-- A query of the random source: a byte laid down, used up, or a free one. -/
theorem State.askRandom_cases (s : State) :
    (∃ r rest, s.ports.random = r :: rest ∧ s.askRandom = (r, { s with ports := { s.ports with random := rest } })) ∨
    (s.ports.random = [] ∧ s.askRandom = (Config.freeRandom s.ports.draws, s.countDraw)) := by
  unfold State.askRandom
  split
  · next r rest h => exact .inl ⟨r, rest, h, rfl⟩
  · next h => exact .inr ⟨h, rfl⟩

/-- A query of the keypad: the key's level in a sample laid down, used up, or a free answer. -/
theorem State.askKey_cases (s : State) (k : Nibble) :
    (∃ sample rest, s.ports.keypad = sample :: rest ∧
      s.askKey k = (sample.getLsbD k.toNat, { s with ports := { s.ports with keypad := rest } })) ∨
    (s.ports.keypad = [] ∧ s.askKey k = (Config.freeKeyDown s.ports.draws k, s.countDraw)) := by
  unfold State.askKey
  split
  · next sample rest h => exact .inl ⟨sample, rest, h, rfl⟩
  · next h => exact .inr ⟨h, rfl⟩

/-- A query of the resolution: the reference display's mode, or a free answer. -/
theorem State.askResolution_cases (s : State) :
    (∃ d, s.ports.display = .reference d ∧ s.askResolution = (d.mode, s)) ∨
    (s.ports.display = .external ∧ s.askResolution = (Config.freeResolution s.ports.draws, s.countDraw)) := by
  unfold State.askResolution
  split
  · next d h => exact .inl ⟨d, h, rfl⟩
  · next h => exact .inr ⟨h, rfl⟩

theorem State.askResolution_reference (s : State) (d : RefDisplay) (h : s.ports.display = .reference d) :
    s.askResolution = (d.mode, s) := by
  simp [State.askResolution, h]

theorem State.askSetPixel_reference (s : State) (px py : Nat) (d : RefDisplay) (h : s.ports.display = .reference d) :
    s.askSetPixel px py = (Frame.pixel d.fb px py,
      { s with ports := { s.ports with display := .reference (d.setPixel px py).2 } }) := by
  simp [State.askSetPixel, h]

/-- A toggle appends one effect that carries the answer, and changes nothing else but the ports. -/
theorem State.togglePixel_out (s : State) (px py : Nat) :
    (s.togglePixel px py).2.out =
      { s.out with effects := s.out.effects ++ [.pixelToggle px py (s.togglePixel px py).1] } := by
  simp [State.togglePixel]

/-- Toggling a list appends one effect per position, in order, with the answers it got; the result is whether any was 1. -/
theorem State.togglePixels_out (ps : List (Nat × Nat)) (s : State) :
    ∃ answers : List Bool, answers.length = ps.length ∧ (s.togglePixels ps).1 = answers.any id ∧
      (s.togglePixels ps).2.out = { s.out with
        effects := (s.out.effects ++ (ps.zip answers).map fun p => Effect.pixelToggle p.1.1 p.1.2 p.2) } := by
  induction ps generalizing s with
  | nil => exact ⟨[], rfl, rfl, by simp [State.togglePixels]⟩
  | cons p ps ih =>
    obtain ⟨answers, hlen, hany, hout⟩ := ih (s.togglePixel p.1 p.2).2
    refine ⟨(s.togglePixel p.1 p.2).1 :: answers, by simp [hlen], by simp [State.togglePixels, hany], ?_⟩
    simp [State.togglePixels, hout, State.togglePixel_out]

end Sys2Proof.Machine
end

