-- ==== Sys2Proof/Laws/Step.lean ====
section
/-! SUPPORT. What the stack primitives, the execute phase and a step can do, said once. -/

namespace Sys2Proof.Machine

/-! ## The call stack (10_state.md R34) -/

theorem State.push_of_lt (s : State) (a : Addr) (h : s.sp.val < 16) :
    s.push a = .ok { s with stack := s.stack.set s.sp.val a h, sp := ⟨s.sp.val + 1, by omega⟩ } := by
  simp [State.push, h]

theorem State.push_full (s : State) (a : Addr) (h : s.sp.val = 16) : s.push a = .error .stackOverflow := by
  simp [State.push, h]

theorem State.pop_of_pos (s : State) (h : 0 < s.sp.val) :
    s.pop = .ok (s.stack[s.sp.val - 1]'(by omega), { s with sp := ⟨s.sp.val - 1, by omega⟩ }) := by
  have : s.sp.val ≠ 0 := by omega
  simp [State.pop, this]

theorem State.pop_empty (s : State) (h : s.sp.val = 0) : s.pop = .error .stackUnderflow := by
  simp [State.pop, h]

/-! ## Outcomes -/

/-- No instruction faults and none is refused: the execute phase always answers a next state. -/
theorem exec_answers_next (i : Instr) (s : State) : ∃ t, exec i s = .next t := by
  cases i <;> exact ⟨_, rfl⟩

/-- What a step can do: nothing, when the engine is not Ready; a fetch error; a decode error; or the execute phase of the
instruction fetched. -/
theorem step_cases (s : State) :
    (s.es ≠ .ready ∧ step s = .next s.beginStep) ∨
    (s.es = .ready ∧ s.pc.toNat = 0xFFF ∧ step s = .next (s.beginStep.raise (.memoryError 0x1000))) ∨
    (∃ w, s.es = .ready ∧ s.fetch = .ok w ∧ decodeOp w = none ∧
      step s = .next (s.beginStep.advance.raise (.decodeError w))) ∨
    (∃ w i, s.es = .ready ∧ s.fetch = .ok w ∧ decodeOp w = some i ∧ step s = exec i s.beginStep.advance) := by
  by_cases hr : s.es = .ready
  · right
    have hpc := s.pc.isLt
    have hf : s.beginStep.fetch = s.fetch := rfl
    have hstep : step s = readyStep s.beginStep := by simp [step, hr]
    by_cases hp : s.pc.toNat < 0xFFF
    · right
      have hw := s.fetch_eq
      rw [if_pos hp] at hw
      cases hd : decodeOp (s.byteAt s.pc.toNat ++ s.byteAt (s.pc.toNat + 1)) with
      | none =>
        refine .inl ⟨_, hr, hw, hd, ?_⟩
        simp only [hstep, readyStep, hf, hw, decode, hd]
      | some i =>
        refine .inr ⟨_, i, hr, hw, hd, ?_⟩
        simp only [hstep, readyStep, hf, hw, decode, hd]
    · left
      have hw := s.fetch_eq
      rw [if_neg hp] at hw
      refine ⟨hr, by omega, ?_⟩
      simp only [hstep, readyStep, hf, hw]
  · left
    refine ⟨hr, ?_⟩
    unfold step
    split
    · contradiction
    · rfl
    · rfl

/-! ## Frames of the shared operations -/

theorem SameMemory.of_eq {s t : State} (hm : t.mem = s.mem) (hp : t.params = s.params) : SameMemory s t :=
  State.byteAt_of_mem_eq hm hp

theorem SameMemory.refl (s : State) : SameMemory s s := fun _ => rfl

/-- Taking an error changes only `ES` and the answer of the step (60_exceptions.md R216). -/
theorem State.raise_errorTaken (s : State) (e : EngineError) : ErrorTaken e s (s.raise e) :=
  ⟨rfl, rfl, rfl, fun _ => rfl⟩

/-- Writing registers changes registers only. -/
theorem State.setV_registersOnly (s : State) (x : Nibble) (b : Byte) : RegistersOnly s (s.setV x b) :=
  ⟨rfl, fun _ => rfl⟩

theorem State.setV_sameRegistersBut (s : State) (x : Nibble) (b : Byte) : SameRegistersBut [x] s (s.setV x b) := by
  intro r hr
  simp only [List.mem_singleton] at hr
  simp [hr]

theorem State.setVThenFlag_registersOnly (s : State) (x : Nibble) (b : Byte) (f : Bool) :
    RegistersOnly s (s.setVThenFlag x b f) :=
  ⟨rfl, fun _ => rfl⟩

theorem State.setVThenFlag_sameRegistersBut (s : State) (x : Nibble) (b : Byte) (f : Bool) :
    SameRegistersBut [x, 15] s (s.setVThenFlag x b f) := by
  intro r hr
  simp only [List.mem_cons, List.not_mem_nil, or_false, not_or] at hr
  have h15 : r ≠ 15#4 := hr.2
  simp [hr.1, h15]

theorem State.setPc_pcOnly (s : State) (a : Addr) : PcOnly s (s.setPc a) := ⟨rfl, fun _ => rfl⟩

/-- A skip changes PC only. -/
theorem State.skipIf_pcOnly (s : State) (c : Bool) : PcOnly s (s.skipIf c) := by
  cases c <;> exact ⟨rfl, fun _ => rfl⟩

/-- Where a skip leaves PC (41_skips.md R129). -/
theorem State.skipIf_pc_toNat (s : State) (c : Bool) :
    (s.skipIf c).pc.toNat = if c then (s.pc.toNat + 2) % 4096 else s.pc.toNat := by
  cases c <;> simp [BitVec.toNat_add]

/-- A store changes memory only, and of it only the stored range. -/
theorem State.storeBytes_memoryOnly (s : State) (a : Nat) (bs : List Byte) :
    MemoryOnly a bs.length s (s.storeBytes a bs) := by
  refine ⟨rfl, fun b hb => ?_⟩
  rw [State.byteAt_storeBytes, dif_neg (by omega)]

end Sys2Proof.Machine
end

