-- ==== Sys2Proof/Laws/Exec.lean ====
section
/-! SUPPORT. What the instructions with more than one outcome can do, and the queries of the ports as frames. -/

namespace Sys2Proof.Machine

/-! ## Queries change the ports only -/

theorem State.askResolution_frame (s : State) :
    ∃ n, s.askResolution.2 = { s with ports := { s.ports with draws := n } } := by
  unfold State.askResolution State.countDraw
  split <;> exact ⟨_, rfl⟩

theorem State.askKey_frame (s : State) (k : Nibble) : ∃ p, (s.askKey k).2 = { s with ports := p } := by
  unfold State.askKey State.countDraw
  split <;> exact ⟨_, rfl⟩

theorem State.askRandom_frame (s : State) : ∃ p, s.askRandom.2 = { s with ports := p } := by
  unfold State.askRandom State.countDraw
  split <;> exact ⟨_, rfl⟩

/-- Toggling changes the ports and the effect list, and nothing else. -/
theorem State.togglePixels_frame (ps : List (Nat × Nat)) (s : State) :
    ∃ p es, (s.togglePixels ps).2 = { s with ports := p, out := { s.out with effects := es } } := by
  induction ps generalizing s with
  | nil => exact ⟨_, _, rfl⟩
  | cons q ps ih =>
    obtain ⟨p, es, h⟩ := ih (s.togglePixel q.1 q.2).2
    rw [State.togglePixels, h]
    unfold State.togglePixel State.askSetPixel State.emit State.countDraw
    split <;> exact ⟨_, _, rfl⟩

/-- A toggle leaves a display of its kind at the port: the reference display in the same mode with that pixel inverted. -/
theorem State.togglePixel_reference (s : State) (px py : Nat) (d : RefDisplay) (h : s.ports.display = .reference d) :
    (s.togglePixel px py).1 = Frame.pixel d.fb px py ∧
    (s.togglePixel px py).2.ports = { s.ports with display := .reference (d.setPixel px py).2 } := by
  simp [State.togglePixel, State.askSetPixel_reference s px py d h]

/-- What toggling leaves of the ports: an external display with more answers given, or the reference display in its mode. -/
theorem State.togglePixels_ports (ps : List (Nat × Nat)) (s : State) :
    (s.ports.display = .external →
      (s.togglePixels ps).2.ports = { s.ports with draws := (s.togglePixels ps).2.ports.draws }) ∧
    ∀ d, s.ports.display = .reference d →
      ∃ d', (s.togglePixels ps).2.ports = { s.ports with display := .reference d' } ∧ d'.mode = d.mode := by
  induction ps generalizing s with
  | nil => exact ⟨fun _ => rfl, fun d hd => ⟨d, by rw [← hd]; rfl, rfl⟩⟩
  | cons p ps ih =>
    obtain ⟨h1, h2⟩ := ih (s.togglePixel p.1 p.2).2
    refine ⟨fun hd => ?_, fun d hd => ?_⟩
    · have hp : (s.togglePixel p.1 p.2).2.ports = { s.ports with draws := s.ports.draws + 1 } := by
        simp [State.togglePixel, State.askSetPixel, hd, State.countDraw]
      have h := h1 (by rw [hp]; exact hd)
      show (State.togglePixels (s.togglePixel p.1 p.2).2 ps).2.ports = _
      rw [h, hp]
      rfl
    · have hp := (State.togglePixel_reference s p.1 p.2 d hd).2
      obtain ⟨d', e, m⟩ := h2 _ (by rw [hp])
      exact ⟨d', by show (State.togglePixels (s.togglePixel p.1 p.2).2 ps).2.ports = _; rw [e, hp], m⟩

/-! ## The bounds check of a transfer at `I` -/

theorem spriteShape_total (n : Nibble) (res : Resolution) : (spriteShape n res).total = spriteBytes n res := by
  unfold spriteShape spriteBytes
  split
  · simp [SpriteShape.total]
  · cases res <;> rfl

/-- A store at `I` happens whole or raises MemoryError(0x1000). -/
theorem State.orRaise_storeRange_i (s : State) (bs : List Byte) :
    s.orRaise (s.storeRange s.i.toNat bs) =
      if s.i.toNat + bs.length > 4096 then s.raise (.memoryError 0x1000) else s.storeBytes s.i.toNat bs := by
  have := s.i.isLt
  rw [State.storeRange_eq]
  split
  · rw [if_neg (by omega)]; rfl
  · rw [if_pos (by omega), State.orRaise_error]; congr 2; omega

/-! ## Instructions with two outcomes -/

theorem exec_call_eq (s : State) (nnn : Addr) :
    exec (.call nnn) s =
      if h : s.sp.val < 16 then
        .next { s with pc := nnn, stack := s.stack.set s.sp.val s.pc h, sp := ⟨s.sp.val + 1, by omega⟩ }
      else .next (s.raise .stackOverflow) := by
  show Host.Outcome.next _ = _
  unfold State.push
  split <;> rfl

theorem exec_ret_eq (s : State) :
    exec .ret s =
      if s.sp.val = 0 then .next (s.raise .stackUnderflow)
      else .next { s with pc := s.stack[s.sp.val - 1]'(by omega), sp := ⟨s.sp.val - 1, by omega⟩ } := by
  show Host.Outcome.next _ = _
  unfold State.pop
  split <;> rfl

/-- DRW raises MemoryError(0x1000), or draws; in both cases after one query of the resolution. -/
theorem exec_drw_cases (s : State) (x y n : Nibble) :
    (executeError s (.drw x y n) = some (.memoryError 0x1000) ∧
      exec (.drw x y n) s = .next (s.askResolution.2.raise (.memoryError 0x1000))) ∨
    (executeError s (.drw x y n) = none ∧
      exec (.drw x y n) s = .next (s.askResolution.2.drawPixels
        (spritePixels (spriteShape n s.askResolution.1) s.askResolution.1
          (s.bytesAt s.i.toNat (spriteBytes n s.askResolution.1)) (s.getV x).toNat (s.getV y).toNat))) := by
  have hi := s.i.isLt
  obtain ⟨k, hk⟩ := s.askResolution_frame
  have hx : exec (.drw x y n) s = .next (s.askResolution.2.draw s.askResolution.1 x y n) := rfl
  have hE : executeError s (.drw x y n) =
      if spriteBytes n s.askResolution.1 > 0 ∧ s.i.toNat + spriteBytes n s.askResolution.1 - 1 > 4095 then
        some (.memoryError 0x1000) else none := rfl
  rw [hx, hE, hk, State.draw, State.loadRange_eq, spriteShape_total]
  by_cases hc : spriteBytes n s.askResolution.1 = 0 ∨ s.i.toNat + spriteBytes n s.askResolution.1 ≤ 4096
  · right
    refine ⟨if_neg (by omega), ?_⟩
    rw [if_pos (by simpa using hc)]
    rfl
  · left
    refine ⟨if_pos (by omega), ?_⟩
    rw [if_neg (by simpa using hc)]
    have : max s.i.toNat 4096 = 4096 := by omega
    simp only [Except.map, State.orRaise_error, this]

/-! ## The word laid down for the next fetch -/

theorem State.withFetchWord_pc (s : State) (nbits w : Nat) :
    (s.withFetchWord nbits w).pc.toNat = if s.pc = 0xFFF then 0xFFE else s.pc.toNat := by
  simp only [State.withFetchWord, State.placeWord]
  split <;> rfl

theorem State.withFetchWord_fetch (s : State) (nbits w : Nat) :
    (s.withFetchWord nbits w).fetch = .ok (tableWord nbits w) := by
  have hlt : (s.withFetchWord nbits w).pc.toNat < 0xFFF := by
    have := s.pc.isLt
    rw [State.withFetchWord_pc]
    split
    · omega
    · next h =>
      have : s.pc.toNat ≠ 0xFFF := fun e => h (BitVec.eq_of_toNat_eq e)
      omega
  rw [State.fetch_eq, if_pos hlt]
  generalize hT : (if s.pc = 0xFFF then s.setPc 0xFFE else s).setEs .ready = T
  have hS : s.withFetchWord nbits w =
      T.storeBytes T.pc.toNat [(tableWord nbits w).highByte, (tableWord nbits w).kk] := by
    simp only [State.withFetchWord, State.placeWord, hT]
  rw [hS]
  show Except.ok (State.byteAt _ T.pc.toNat ++ State.byteAt _ (T.pc.toNat + 1)) = _
  rw [State.byteAt_storeBytes, State.byteAt_storeBytes, dif_pos (by simp), dif_pos (by simp)]
  simp

end Sys2Proof.Machine
end

