-- ==== Sys2Proof/Laws/PerInstr.lean ====
section
/-! SUPPORT. Facts about every instruction, one lemma per constructor: its encoding stands in its own row of the opcode map. -/

namespace Sys2Proof

/-! ## What a mask keeps of a layout -/

theorem nibble_keep (a : Nibble) : a &&& 0xF#4 = a := BitVec.and_allOnes
theorem nibble_drop (a : Nibble) : a &&& 0x0#4 = 0x0#4 := BitVec.and_zero
theorem byte_keep (k : Byte) : k &&& 0xFF#8 = k := BitVec.and_allOnes
theorem byte_drop (k : Byte) : k &&& 0x00#8 = 0x00#8 := BitVec.and_zero
theorem addr_keep (l : Addr) : l &&& 0xFFF#12 = l := BitVec.and_allOnes
theorem addr_drop (l : Addr) : l &&& 0x000#12 = 0x000#12 := BitVec.and_zero

theorem and_F00F_xys (a b c d : Nibble) : (a ++ b ++ c ++ d : OpCode) &&& 0xF00F = a ++ 0#4 ++ 0#4 ++ d := by
  have h : (a ++ b ++ c ++ d) &&& (0xF#4 ++ 0x0#4 ++ 0x0#4 ++ 0xF#4) = a ++ 0#4 ++ 0#4 ++ d := by
    rw [BitVec.and_append, BitVec.and_append, BitVec.and_append, nibble_keep, nibble_keep, nibble_drop, nibble_drop]
  exact h

theorem and_F000_xys (a b c d : Nibble) : (a ++ b ++ c ++ d : OpCode) &&& 0xF000 = a ++ 0#4 ++ 0#4 ++ 0#4 := by
  have h : (a ++ b ++ c ++ d) &&& (0xF#4 ++ 0x0#4 ++ 0x0#4 ++ 0x0#4) = a ++ 0#4 ++ 0#4 ++ 0#4 := by
    rw [BitVec.and_append, BitVec.and_append, BitVec.and_append, nibble_keep, nibble_drop, nibble_drop, nibble_drop]
  exact h

theorem and_F000_xs (a b : Nibble) (k : Byte) : (a ++ b ++ k : OpCode) &&& 0xF000 = a ++ 0#4 ++ 0#8 := by
  have h : (a ++ b ++ k) &&& (0xF#4 ++ 0x0#4 ++ 0x00#8) = a ++ 0#4 ++ 0#8 := by
    rw [BitVec.and_append, BitVec.and_append, nibble_keep, nibble_drop, byte_drop]
  exact h

theorem and_F0FF_xs (a b : Nibble) (k : Byte) : (a ++ b ++ k : OpCode) &&& 0xF0FF = a ++ 0#4 ++ k := by
  have h : (a ++ b ++ k) &&& (0xF#4 ++ 0x0#4 ++ 0xFF#8) = a ++ 0#4 ++ k := by
    rw [BitVec.and_append, BitVec.and_append, nibble_keep, nibble_drop, byte_keep]
  exact h

theorem and_F000_a (a : Nibble) (l : Addr) : (a ++ l : OpCode) &&& 0xF000 = a ++ 0#12 := by
  have h : (a ++ l) &&& (0xF#4 ++ 0x000#12) = a ++ 0#12 := by
    rw [BitVec.and_append, nibble_keep, addr_drop]
  exact h

theorem and_FFF0_pn (p : BitVec 12) (d : Nibble) : (p ++ d : OpCode) &&& 0xFFF0 = p ++ 0#4 := by
  have h : (p ++ d) &&& (0xFFF#12 ++ 0x0#4) = p ++ 0#4 := by
    rw [BitVec.and_append, addr_keep, nibble_drop]
  exact h

end Sys2Proof

namespace Sys2Proof.Laws.EncodingInRow

/-- The encoding of an instruction is covered by the row the instruction stands in, and that row is one of the map's
(30_encoding.md R100, R104). -/
def Statement (i : Instr) : Prop := (opcodeRow i).covers (encode i) = true ∧ opcodeRow i ∈ opcodeTable

theorem of_covers (i : Instr) (h : encode i &&& (opcodeRow i).mask = (opcodeRow i).pattern)
    (hm : opcodeRow i ∈ opcodeTable) : Statement i := ⟨decide_eq_true h, hm⟩

theorem scd (n : Nibble) : Statement (.scd n) :=
  of_covers _ ((and_FFF0_pn ..).trans rfl) (by simp [opcodeRow, opcodeTable])
theorem cls : Statement (.cls) :=
  of_covers _ (by decide) (by decide)
theorem ret : Statement (.ret) :=
  of_covers _ (by decide) (by decide)
theorem scr : Statement (.scr) :=
  of_covers _ (by decide) (by decide)
theorem scl : Statement (.scl) :=
  of_covers _ (by decide) (by decide)
theorem exit : Statement (.exit) :=
  of_covers _ (by decide) (by decide)
theorem low : Statement (.low) :=
  of_covers _ (by decide) (by decide)
theorem high : Statement (.high) :=
  of_covers _ (by decide) (by decide)
theorem jp (nnn : Addr) : Statement (.jp nnn) :=
  of_covers _ ((and_F000_a ..).trans rfl) (by simp [opcodeRow, opcodeTable])
theorem call (nnn : Addr) : Statement (.call nnn) :=
  of_covers _ ((and_F000_a ..).trans rfl) (by simp [opcodeRow, opcodeTable])
theorem seImm (x : Nibble) (kk : Byte) : Statement (.seImm x kk) :=
  of_covers _ ((and_F000_xs ..).trans rfl) (by simp [opcodeRow, opcodeTable])
theorem sneImm (x : Nibble) (kk : Byte) : Statement (.sneImm x kk) :=
  of_covers _ ((and_F000_xs ..).trans rfl) (by simp [opcodeRow, opcodeTable])
theorem seReg (x y : Nibble) : Statement (.seReg x y) :=
  of_covers _ ((and_F00F_xys ..).trans rfl) (by simp [opcodeRow, opcodeTable])
theorem ldImm (x : Nibble) (kk : Byte) : Statement (.ldImm x kk) :=
  of_covers _ ((and_F000_xs ..).trans rfl) (by simp [opcodeRow, opcodeTable])
theorem addImm (x : Nibble) (kk : Byte) : Statement (.addImm x kk) :=
  of_covers _ ((and_F000_xs ..).trans rfl) (by simp [opcodeRow, opcodeTable])
theorem ldReg (x y : Nibble) : Statement (.ldReg x y) :=
  of_covers _ ((and_F00F_xys ..).trans rfl) (by simp [opcodeRow, opcodeTable])
theorem orReg (x y : Nibble) : Statement (.orReg x y) :=
  of_covers _ ((and_F00F_xys ..).trans rfl) (by simp [opcodeRow, opcodeTable])
theorem andReg (x y : Nibble) : Statement (.andReg x y) :=
  of_covers _ ((and_F00F_xys ..).trans rfl) (by simp [opcodeRow, opcodeTable])
theorem xorReg (x y : Nibble) : Statement (.xorReg x y) :=
  of_covers _ ((and_F00F_xys ..).trans rfl) (by simp [opcodeRow, opcodeTable])
theorem addReg (x y : Nibble) : Statement (.addReg x y) :=
  of_covers _ ((and_F00F_xys ..).trans rfl) (by simp [opcodeRow, opcodeTable])
theorem subReg (x y : Nibble) : Statement (.subReg x y) :=
  of_covers _ ((and_F00F_xys ..).trans rfl) (by simp [opcodeRow, opcodeTable])
theorem shr (x : Nibble) : Statement (.shr x) :=
  of_covers _ ((and_F00F_xys ..).trans rfl) (by simp [opcodeRow, opcodeTable])
theorem subnReg (x y : Nibble) : Statement (.subnReg x y) :=
  of_covers _ ((and_F00F_xys ..).trans rfl) (by simp [opcodeRow, opcodeTable])
theorem shl (x : Nibble) : Statement (.shl x) :=
  of_covers _ ((and_F00F_xys ..).trans rfl) (by simp [opcodeRow, opcodeTable])
theorem sneReg (x y : Nibble) : Statement (.sneReg x y) :=
  of_covers _ ((and_F00F_xys ..).trans rfl) (by simp [opcodeRow, opcodeTable])
theorem ldI (nnn : Addr) : Statement (.ldI nnn) :=
  of_covers _ ((and_F000_a ..).trans rfl) (by simp [opcodeRow, opcodeTable])
theorem jpV0 (nnn : Addr) : Statement (.jpV0 nnn) :=
  of_covers _ ((and_F000_a ..).trans rfl) (by simp [opcodeRow, opcodeTable])
theorem rnd (x : Nibble) (kk : Byte) : Statement (.rnd x kk) :=
  of_covers _ ((and_F000_xs ..).trans rfl) (by simp [opcodeRow, opcodeTable])
theorem drw (x y n : Nibble) : Statement (.drw x y n) :=
  of_covers _ ((and_F000_xys ..).trans rfl) (by simp [opcodeRow, opcodeTable])
theorem skp (x : Nibble) : Statement (.skp x) :=
  of_covers _ ((and_F0FF_xs ..).trans rfl) (by simp [opcodeRow, opcodeTable])
theorem sknp (x : Nibble) : Statement (.sknp x) :=
  of_covers _ ((and_F0FF_xs ..).trans rfl) (by simp [opcodeRow, opcodeTable])
theorem ldVxDt (x : Nibble) : Statement (.ldVxDt x) :=
  of_covers _ ((and_F0FF_xs ..).trans rfl) (by simp [opcodeRow, opcodeTable])
theorem ldVxK (x : Nibble) : Statement (.ldVxK x) :=
  of_covers _ ((and_F0FF_xs ..).trans rfl) (by simp [opcodeRow, opcodeTable])
theorem ldDtVx (x : Nibble) : Statement (.ldDtVx x) :=
  of_covers _ ((and_F0FF_xs ..).trans rfl) (by simp [opcodeRow, opcodeTable])
theorem ldStVx (x : Nibble) : Statement (.ldStVx x) :=
  of_covers _ ((and_F0FF_xs ..).trans rfl) (by simp [opcodeRow, opcodeTable])
theorem addI (x : Nibble) : Statement (.addI x) :=
  of_covers _ ((and_F0FF_xs ..).trans rfl) (by simp [opcodeRow, opcodeTable])
theorem ldF (x : Nibble) : Statement (.ldF x) :=
  of_covers _ ((and_F0FF_xs ..).trans rfl) (by simp [opcodeRow, opcodeTable])
theorem ldB (x : Nibble) : Statement (.ldB x) :=
  of_covers _ ((and_F0FF_xs ..).trans rfl) (by simp [opcodeRow, opcodeTable])
theorem ldMemVx (x : Nibble) : Statement (.ldMemVx x) :=
  of_covers _ ((and_F0FF_xs ..).trans rfl) (by simp [opcodeRow, opcodeTable])
theorem ldVxMem (x : Nibble) : Statement (.ldVxMem x) :=
  of_covers _ ((and_F0FF_xs ..).trans rfl) (by simp [opcodeRow, opcodeTable])

end Sys2Proof.Laws.EncodingInRow
end

