-- ==== Sys2Proof/Tests/Slice0.lean ====
section
/-! SUPPORT. Tests against 95_test_vectors.md (each names its vector) and the spec's encodings, the refusals of WellFormed, and a
witness for the hypotheses of every statement. -/

open Sys2Proof Sys2Proof.Machine

namespace Sys2Proof.Tests

/-! ## Decoding: one word per constructor, written out from the encodings of 40_ to 47_ -/

theorem test_decode_scd : decode 0x00CA = .ok (.scd 0xA) := by decide
theorem test_decode_cls : decode 0x00E0 = .ok .cls := by decide
theorem test_decode_ret : decode 0x00EE = .ok .ret := by decide
theorem test_decode_scr : decode 0x00FB = .ok .scr := by decide
theorem test_decode_scl : decode 0x00FC = .ok .scl := by decide
theorem test_decode_exit : decode 0x00FD = .ok .exit := by decide
theorem test_decode_low : decode 0x00FE = .ok .low := by decide
theorem test_decode_high : decode 0x00FF = .ok .high := by decide
theorem test_decode_jp : decode 0x1ABC = .ok (.jp 0xABC) := by decide
theorem test_decode_call : decode 0x2ABC = .ok (.call 0xABC) := by decide
theorem test_decode_seImm : decode 0x3F01 = .ok (.seImm 15 0x01) := by decide
theorem test_decode_sneImm : decode 0x432A = .ok (.sneImm 3 0x2A) := by decide
theorem test_decode_seReg : decode 0x5AB0 = .ok (.seReg 10 11) := by decide
theorem test_decode_ldImm : decode 0x6A2F = .ok (.ldImm 10 0x2F) := by decide
theorem test_decode_addImm : decode 0x7303 = .ok (.addImm 3 0x03) := by decide
theorem test_decode_ldReg : decode 0x8AB0 = .ok (.ldReg 10 11) := by decide
theorem test_decode_orReg : decode 0x8AB1 = .ok (.orReg 10 11) := by decide
theorem test_decode_andReg : decode 0x8AB2 = .ok (.andReg 10 11) := by decide
theorem test_decode_xorReg : decode 0x8AB3 = .ok (.xorReg 10 11) := by decide
theorem test_decode_addReg : decode 0x8AB4 = .ok (.addReg 10 11) := by decide
theorem test_decode_subReg : decode 0x8AB5 = .ok (.subReg 10 11) := by decide
theorem test_decode_shr : decode 0x8AB6 = .ok (.shr 10) := by decide
theorem test_decode_subnReg : decode 0x8AB7 = .ok (.subnReg 10 11) := by decide
theorem test_decode_shl : decode 0x8ABE = .ok (.shl 10) := by decide
theorem test_decode_sneReg : decode 0x9AB0 = .ok (.sneReg 10 11) := by decide
theorem test_decode_ldI : decode 0xA2F0 = .ok (.ldI 0x2F0) := by decide
theorem test_decode_jpV0 : decode 0xBFFF = .ok (.jpV0 0xFFF) := by decide
theorem test_decode_rnd : decode 0xC20F = .ok (.rnd 2 0x0F) := by decide
theorem test_decode_drw : decode 0xDABC = .ok (.drw 10 11 12) := by decide
theorem test_decode_skp : decode 0xE49E = .ok (.skp 4) := by decide
theorem test_decode_sknp : decode 0xEFA1 = .ok (.sknp 15) := by decide
theorem test_decode_ldVxDt : decode 0xF307 = .ok (.ldVxDt 3) := by decide
theorem test_decode_ldVxK : decode 0xFF0A = .ok (.ldVxK 15) := by decide
theorem test_decode_ldDtVx : decode 0xF315 = .ok (.ldDtVx 3) := by decide
theorem test_decode_ldStVx : decode 0xF318 = .ok (.ldStVx 3) := by decide
theorem test_decode_addI : decode 0xF21E = .ok (.addI 2) := by decide
theorem test_decode_ldF : decode 0xF129 = .ok (.ldF 1) := by decide
theorem test_decode_ldB : decode 0xF533 = .ok (.ldB 5) := by decide
theorem test_decode_ldMemVx : decode 0xFA55 = .ok (.ldMemVx 10) := by decide
theorem test_decode_ldVxMem : decode 0xFA65 = .ok (.ldVxMem 10) := by decide

/-- Vectors E20 to E40: each word is refused with its bit pattern. -/
theorem test_decode_refuses :
    ([0x0000, 0x00E1, 0x01E0, 0x00B3, 0x00D0, 0x00FA, 0x0123, 0x0FFF, 0x5121, 0x512F, 0x9AB1] ++
      [0x8008, 0x812D, 0x812F, 0xE000, 0xE19F, 0xE1A0, 0xF000, 0xF130, 0xF175, 0xF185, 0xFFFF]).all
      (fun w => decode w = Except.error (DecodeFault.unsupportedOpcode w)) = true := by decide

/-- Vectors E10, E11: the shifts are written with `y = 0` (30_encoding.md R103). -/
theorem test_encode_shifts : encode (.shr 10) = 0x8A06 ∧ encode (.shl 10) = 0x8A0E := by decide

/-- R68: the byte at the lower address is the high one; a lone byte is refused. -/
theorem test_decodeBytes : decodeBytes [0x6A, 0x2F, 0x99] = .ok (.ldImm 10 0x2F, [0x99]) ∧
    decodeBytes [0x6A] = .error .truncated := by decide

theorem test_encodeBytes : encodeBytes (.call 0xABC) = [0x2A, 0xBC] := by decide

theorem test_decodeTableWord : decodeTableWord 16 0xD123 = some (.drw 1 2 3) ∧ decodeTableWord 16 0x0123 = none := by decide

/-! ## WellFormed: each check with a term it refuses -/

theorem test_instr_wellFormed : Instr.wellFormed (.drw 15 15 0) = true := by decide
theorem test_params_standard : Config.standard.wellFormed = true := by decide
/-- 0x1B0 is the last base that R6 admits. -/
theorem test_params_font_too_high :
    Params.wellFormed { Config.standard with fontBase := 0x1B0 } = true ∧
    Params.wellFormed { Config.standard with fontBase := 0x1B1 } = false := by decide
theorem test_params_font_too_short : Params.wellFormed { Config.standard with fontData := [0xF0] } = false := by decide
theorem test_image_fits : imageFits 0xFFF [0xAA] = true ∧ imageFits 0xFFF [0xAA, 0xBB] = false := by decide

/-! ## Small states -/

/-- The state after reset with these register values. -/
def regs (l : List (Nat × Nat)) : State :=
  l.foldl (fun s p => s.setV (BitVec.ofNat 4 p.1) (BitVec.ofNat 8 p.2)) State.reset

/-- The state after one step on the word `w`; the state itself if there is none. -/
def after (s : State) (w : Nat) : State :=
  match step (s.withFetchWord 16 w) with
  | .next t => t
  | .fault _ => s
  | .refused _ => s

/-- The state after one operation of the host. -/
def afterOp (s : State) (o : HostOp) : State :=
  match hostOp o s with
  | .next t => t
  | .fault _ => s
  | .refused _ => s

/-- The state with the blank reference display in High mode. -/
def highRes (s : State) : State :=
  { s with ports := { s.ports with display := .reference (RefDisplay.blank.setMode .high) } }

/-- The frame buffer with exactly these pixels lit. -/
def lit (l : List (Nat × Nat)) : Frame := l.foldl (fun f p => f.flip p.1 p.2) Frame.blank

/-! ## Control flow (2.3) -/

theorem test_jp_C1 : (after State.reset 0x1ABC).pc = 0xABC := by decide
theorem test_jpV0_C6 : (after (regs [(0, 0xFF)]) 0xBFFF).pc = 0x0FE := by decide
theorem test_call_C7 : (after State.reset 0x2ABC).stack[0] = 0x202 ∧ (after State.reset 0x2ABC).sp = 1 ∧
    (after State.reset 0x2ABC).pc = 0xABC := by decide
theorem test_call_C9 : (after { State.reset with sp := 16 } 0x2ABC).es = .halted (.error .stackOverflow) ∧
    (after { State.reset with sp := 16 } 0x2ABC).pc = 0x202 := by decide
theorem test_ret_C11 :
    (after { State.reset with sp := 2, pc := 0x400, stack := State.reset.stack.set 1 0x30A } 0x00EE).pc = 0x30A ∧
    (after { State.reset with sp := 2, pc := 0x400, stack := State.reset.stack.set 1 0x30A } 0x00EE).sp = 1 := by decide
theorem test_ret_C12 : (after State.reset 0x00EE).es = .halted (.error .stackUnderflow) ∧
    (after State.reset 0x00EE).pc = 0x202 := by decide

/-! ## Fetch (2.2) -/

theorem test_fetch_T3 : (after { State.reset with pc := 0xFFE } 0x6005).pc = 0x000 ∧
    (after { State.reset with pc := 0xFFE } 0x6005).getV 0 = 0x05 := by decide
theorem test_fetch_T4 : (afterOp { State.reset with pc := 0xFFF } .step).out.report = some (.memoryError 0x1000) ∧
    (afterOp { State.reset with pc := 0xFFF } .step).pc = 0xFFF := by decide
theorem test_fetch_T7 : (afterOp State.reset .step).es = .halted (.error (.decodeError 0x0000)) ∧
    (afterOp State.reset .step).pc = 0x202 := by decide

/-! ## Skips (2.4) -/

theorem test_seImm_K1_K2 : (after (regs [(3, 0x2A)]) 0x332A).pc = 0x204 ∧ (after (regs [(3, 0x2B)]) 0x332A).pc = 0x202 := by
  decide
theorem test_sneImm_K3_K4 : (after (regs [(3, 0x2A)]) 0x432A).pc = 0x202 ∧ (after (regs [(3, 0x2B)]) 0x432A).pc = 0x204 := by
  decide
theorem test_seReg_K5_K6 : (after (regs [(1, 7), (2, 7)]) 0x5120).pc = 0x204 ∧
    (after (regs [(1, 7), (2, 8)]) 0x5120).pc = 0x202 := by decide
theorem test_sneReg_K8_K9 : (after (regs [(1, 7), (2, 8)]) 0x9120).pc = 0x204 ∧ (after (regs [(3, 9)]) 0x9330).pc = 0x202 := by
  decide
/-- K15: the low nibble of 1A selects key A, bit 10 of the sample. -/
theorem test_skp_K15 : (after ((regs [(4, 0x1A)]).withKeys [0x0400]) 0xE49E).pc = 0x204 := by decide
theorem test_skp_K12 : (after ((regs [(4, 5)]).withKeys [0x0000]) 0xE49E).pc = 0x202 := by decide
theorem test_sknp_K13 : (after ((regs [(4, 5)]).withKeys [0x0000]) 0xE4A1).pc = 0x204 := by decide
theorem test_sknp_K16 : (after ((regs [(4, 0x1A)]).withKeys [0x0400]) 0xE4A1).pc = 0x202 := by decide
theorem test_skip_wraps_T5 : (after { State.reset with pc := 0xFFE } 0x3000).pc = 0x002 := by decide

/-! ## Register arithmetic and logic (2.5) -/

/-- `V[1]` and `V[15]` after the word, from A, B and the flag before. -/
def alu (w a b f : Nat) : Byte × Byte :=
  ((after (regs [(1, a), (2, b), (15, f)]) w).getV 1, (after (regs [(1, a), (2, b), (15, f)]) w).getV 15)

theorem test_ldReg_A1 : alu 0x8120 0x11 0x5C 0x77 = (0x5C, 0x77) := by decide
theorem test_orReg_A2 : alu 0x8121 0xF0 0x3C 0x77 = (0xFC, 0x77) := by decide
theorem test_andReg_A3 : alu 0x8122 0xF0 0x3C 0x77 = (0x30, 0x77) := by decide
theorem test_xorReg_A4 : alu 0x8123 0xF0 0x3C 0x77 = (0xCC, 0x77) := by decide
theorem test_addReg_A5 : alu 0x8124 0xC8 0x64 0x00 = (0x2C, 0x01) := by decide
/-- A34: the carry overwrites the sum in VF. -/
theorem test_addReg_A34 : (after (regs [(15, 0xF0), (1, 0x20)]) 0x8F14).getV 15 = 0x01 := by decide
theorem test_subReg_A10_A12 : alu 0x8125 0x10 0x20 0x00 = (0xF0, 0x00) ∧ alu 0x8125 0x33 0x33 0x00 = (0x00, 0x01) := by decide
theorem test_subnReg_A15_A16 : alu 0x8127 0x10 0x20 0x00 = (0x10, 0x01) ∧ alu 0x8127 0x20 0x10 0x00 = (0xF0, 0x00) := by decide
theorem test_shr_A19_A23 : alu 0x8126 0x05 0xAA 0x00 = (0x02, 0x01) ∧ alu 0x8126 0x80 0xAA 0x00 = (0x40, 0x00) := by decide
theorem test_shl_A24_A27 : alu 0x812E 0x81 0xAA 0x00 = (0x02, 0x01) ∧ alu 0x812E 0x40 0xAA 0x00 = (0x80, 0x00) := by decide

/-! ## Immediates (2.6) -/

theorem test_ldImm_I2 : (after State.reset 0x6FAB).getV 15 = 0xAB := by decide
theorem test_addImm_I3 : (after (regs [(3, 0xFE), (15, 0x55)]) 0x7303).getV 3 = 0x01 ∧
    (after (regs [(3, 0xFE), (15, 0x55)]) 0x7303).getV 15 = 0x55 := by decide

/-! ## Address register and memory (2.7) -/

theorem test_ldI_M1 : (after State.reset 0xA2F0).i = 0x2F0 := by decide
theorem test_addI_M5 : (after { regs [(2, 0xFF)] with i := 0xFFF } 0xF21E).i = 0x0FE := by decide
theorem test_ldF_M7_M9 : (after (regs [(1, 0x1A)]) 0xF129).i = 0x032 ∧ (after (regs [(1, 0x0F)]) 0xF129).i = 0x04B := by decide
/-- The glyph LD F points at is the one of the digit (20_memory.md R72, digit 7). -/
theorem test_font_glyph_7 : State.reset.bytesAt (after (regs [(1, 7)]) 0xF129).i.toNat 5 = [0xF0, 0x10, 0x20, 0x40, 0x40] := by
  decide
theorem test_ldB_M10 : (after { regs [(5, 0x9C)] with i := 0x300 } 0xF533).bytesAt 0x300 3 = [1, 5, 6] := by decide
theorem test_ldB_M16_M17 : (after { regs [(5, 0xFF)] with i := 0xFFD } 0xF533).bytesAt 0xFFD 3 = [2, 5, 5] ∧
    (after { regs [(5, 0xFF)] with i := 0xFFE } 0xF533).es = .halted (.error (.memoryError 0x1000)) := by decide
theorem test_ldMemVx_M18 :
    (after { regs [(0, 0x11), (1, 0x22), (2, 0x33), (3, 0x44)] with i := 0x400 } 0xF255).bytesAt 0x400 4 =
      [0x11, 0x22, 0x33, 0x00] := by decide
/-- M22: the store overwrites the instruction after it was fetched. -/
theorem test_ldMemVx_M22 :
    (after { regs [(0, 0x12), (1, 0x34), (2, 0x56)] with i := 0x200 } 0xF255).bytesAt 0x200 4 = [0x12, 0x34, 0x56, 0x00] := by
  decide
theorem test_ldVxMem_M23 :
    (after { State.reset.storeBytes 0x400 [0x11, 0x22, 0x33, 0x44] with i := 0x400 } 0xF265).v.toList.take 4 =
      [0x11, 0x22, 0x33, 0x00] := by decide
theorem test_ldVxMem_M26 :
    (after { regs [(0, 0x5A), (1, 0x5B)] with i := 0xFFF } 0xF165).getV 0 = 0x5A ∧
    (after { regs [(0, 0x5A), (1, 0x5B)] with i := 0xFFF } 0xF165).out.report = some (.memoryError 0x1000) := by decide

/-- R71: a zero over a font byte is kept; writing the reset content back empties the list again. -/
theorem test_memory_canonical : (State.reset.storeBytes 0 [0x00]).mem = [(0, 0x00)] ∧
    ((State.reset.storeBytes 0 [0x00]).storeBytes 0 [0xF0]).mem = [] := by decide

/-! ## Timers and random (2.8) -/

theorem test_ldVxDt_X1 : (after { State.reset with dt := 0x1E } 0xF307).getV 3 = 0x1E := by decide
theorem test_ldDtVx_X2 : (after (regs [(3, 0x3C)]) 0xF315).dt = 0x3C := by decide
theorem test_ldStVx_X3 : (after (regs [(3, 0x05)]) 0xF318).st = 0x05 ∧ (after (regs [(3, 0x05)]) 0xF318).soundOn = true := by
  decide
theorem test_tick_X5 : (afterOp { State.reset with dt := 3, st := 1 } .tickTimers).dt = 2 ∧
    (afterOp { State.reset with dt := 3, st := 0 } .tickTimers).st = 0 := by decide
theorem test_rnd_X6_X8 : (after (State.reset.withRandom [0xB7]) 0xC20F).getV 2 = 0x07 ∧
    (after ((regs [(2, 0x55)]).withRandom [0xB7]) 0xC200).getV 2 = 0x00 := by decide

/-! ## Drawing and display control (2.9) -/

/-- D5: the effects of a sprite that wraps on both axes. -/
theorem test_drw_D5 :
    (after { (regs [(1, 62), (2, 31)]).withReferenceDisplay.storeBytes 0x320 [0xFF, 0x81] with i := 0x320 } 0xD122).out.effects =
      [.pixelToggle 62 31 false, .pixelToggle 63 31 false, .pixelToggle 0 31 false, .pixelToggle 1 31 false] ++
      [.pixelToggle 2 31 false, .pixelToggle 3 31 false, .pixelToggle 4 31 false, .pixelToggle 5 31 false] ++
      [.pixelToggle 62 0 false, .pixelToggle 5 0 false] := by decide
/-- D2: drawn again, every pixel was set and the display is blank. -/
theorem test_drw_D2 :
    (after { after { (regs [(1, 2), (2, 1)]).withReferenceDisplay.storeBytes 0x300 [0xF0] with i := 0x300 } 0xD121
      with pc := 0x200 } 0xD121).getV 15 = 1 ∧
    (after { after { (regs [(1, 2), (2, 1)]).withReferenceDisplay.storeBytes 0x300 [0xF0] with i := 0x300 } 0xD121
      with pc := 0x200 } 0xD121).ports.display = .reference RefDisplay.blank := by decide

/-- The lit pixels of the vectors D30 to D32. -/
def scrollStart : RefDisplay := { mode := .low, fb := lit [(0, 0), (3, 0), (4, 5), (60, 10), (63, 31), (10, 29)] }

theorem test_scrollDown_D30 : Frame.pixel (scrollStart.scrollDown 3).fb 60 13 = true ∧
    Frame.pixel (scrollStart.scrollDown 3).fb 63 31 = false ∧ Frame.pixel (scrollStart.scrollDown 3).fb 0 0 = false := by
  simp only [RefDisplay.pixel_scrollDown]; decide
theorem test_scrollRight_D31 : Frame.pixel scrollStart.scrollRight.fb 14 29 = true ∧
    Frame.pixel scrollStart.scrollRight.fb 64 10 = false ∧ Frame.pixel scrollStart.scrollRight.fb 3 0 = false := by
  simp only [RefDisplay.pixel_scrollRight]; decide
theorem test_scrollLeft_D32 : Frame.pixel scrollStart.scrollLeft.fb 59 31 = true ∧
    Frame.pixel scrollStart.scrollLeft.fb 0 5 = true ∧ Frame.pixel scrollStart.scrollLeft.fb 63 31 = false := by
  simp only [RefDisplay.pixel_scrollLeft]; decide

theorem test_cls_D20 : (after State.reset 0x00E0).out.effects = [.clear] := by decide
theorem test_low_D21 : (after State.reset 0x00FE).out.effects = [.setMode .low] := by decide
theorem test_high_D22 : (after State.reset.withReferenceDisplay 0x00FF).askResolution.1 = .high := by decide
theorem test_scd_D23 : (after State.reset 0x00C3).out.effects = [.scrollDown 3] := by decide
theorem test_scr_D25 : (after State.reset 0x00FB).out.effects = [.scrollRight] := by decide
theorem test_scl_D26 : (after State.reset 0x00FC).out.effects = [.scrollLeft] := by decide
theorem test_exit_D27 : (after { State.reset with pc := 0x2F0 } 0x00FD).es = .halted .exit ∧
    (after { State.reset with pc := 0x2F0 } 0x00FD).pc = 0x2F2 := by decide

/-! ## Key wait and host operations (2.10, 2.11) -/

theorem test_ldVxK_W1 : (after { State.reset with pc := 0x210 } 0xF50A).es = .awaitingKey 5 ∧
    (after { State.reset with pc := 0x210 } 0xF50A).pc = 0x212 := by decide
theorem test_deliverKey_W4 : (afterOp { State.reset with es := .awaitingKey 5 } (.deliverKey 0xC)).getV 5 = 0x0C ∧
    (afterOp { State.reset with es := .awaitingKey 5 } (.deliverKey 0xC)).es = .ready := by decide
theorem test_load_L1 : (afterOp State.reset (.load 0x200 [0x12, 0x34])).bytesAt 0x200 2 = [0x12, 0x34] := by decide
theorem test_load_after_boot : hostOp (.load 0x300 []) { State.reset with booting := false } = .refused .loadAfterBoot := rfl
theorem test_endedWell : ({ State.reset with es := .halted .exit }).endedWell = true ∧
    ({ State.reset with es := .halted (.error .stackOverflow) }).safe = false := by decide
/-- R215's numbers. -/
theorem test_statusCode : EngineState.statusCode (.halted (.error (.memoryError 4096))) = 3 ∧
    EngineState.statusCode (.halted (.error .stackUnderflow)) = 5 := by decide

/-! ## Witnesses: states and operands that meet the hypotheses of the statements, at the boundaries of their clauses -/

/-- The state after reset with `n` entries on the stack. -/
def atDepth (n : Fin 17) : State := { State.reset with sp := n }

/-- The state after reset with `I` at `a`. -/
def atI (a : Addr) : State := { State.reset with i := a }

theorem test_witness_CallPushesOrOverflows : (atDepth 0).sp.val < 16 ∧ (atDepth 15).sp.val < 16 ∧ (atDepth 16).sp.val = 16 := by
  decide

theorem test_witness_ReturnPopsOrUnderflows : 0 < (atDepth 1).sp.val ∧ 0 < (atDepth 16).sp.val ∧ (atDepth 0).sp.val = 0 := by
  decide

theorem test_witness_NestedCallsAndReturnsBalance :
    (atDepth 0).sp.val + ((0x202, 0x300) :: List.replicate 15 ((0x302, 0x300) : Addr × Addr)).length ≤ 16 ∧
    (atDepth 15).sp.val + [((0x202, 0x300) : Addr × Addr)].length ≤ 16 := by decide

theorem test_witness_RegisterSkips : (regs [(3, 0x2A)]).getV 3 = 0x2A ∧ (regs [(3, 0x2B)]).getV 3 ≠ 0x2A ∧
    (regs [(1, 7), (2, 7)]).getV 1 = (regs [(1, 7), (2, 7)]).getV 2 ∧
    (regs [(1, 7), (2, 8)]).getV 1 ≠ (regs [(1, 7), (2, 8)]).getV 2 := by decide

theorem test_witness_KeySkips : (State.reset.withKeys [0x0400, 0x0000]).ports.keypad = 0x0400 :: [0x0000] ∧
    State.reset.ports.keypad = [] := by decide

/-- The hypotheses of SkipDeltaFromFetch for the word `w` laid down in `s`. -/
def skipsAs (s : State) (w : Nat) (cond : Bool) : Bool :=
  decide ((s.withFetchWord 16 w).es = .ready) && decide ((s.withFetchWord 16 w).fetch = .ok (BitVec.ofNat 16 w)) &&
  match decode (BitVec.ofNat 16 w) with
  | .ok i => decide (skipCondition (s.withFetchWord 16 w) i = some cond)
  | .error _ => false

/-- For each of the six skips a step whose condition holds and one whose condition does not. -/
theorem test_witness_SkipDeltaFromFetch :
    skipsAs (regs [(3, 0x2A)]) 0x332A true ∧ skipsAs (regs [(3, 0x2B)]) 0x332A false ∧
    skipsAs (regs [(3, 0x2B)]) 0x432A true ∧ skipsAs (regs [(3, 0x2A)]) 0x432A false ∧
    skipsAs (regs [(1, 7), (2, 7)]) 0x5120 true ∧ skipsAs (regs [(1, 7)]) 0x5120 false ∧
    skipsAs (regs [(1, 7)]) 0x9120 true ∧ skipsAs (regs [(3, 9)]) 0x9330 false ∧
    skipsAs ((regs [(4, 5)]).withKeys [0x0020]) 0xE49E true ∧ skipsAs ((regs [(4, 5)]).withKeys [0]) 0xE49E false ∧
    skipsAs ((regs [(4, 5)]).withKeys [0]) 0xE4A1 true ∧ skipsAs ((regs [(4, 5)]).withKeys [0x0020]) 0xE4A1 false := by
  decide

/-- The two clauses on the ports: a register skip, and the key skips with a sample laid down and without. -/
theorem test_witness_SkipDeltaFromFetch_ports : asksPorts (.seImm 3 0x2A) = false ∧ asksPorts (.sneImm 3 0x2A) = false ∧
    asksPorts (.seReg 1 2) = false ∧ asksPorts (.sneReg 1 2) = false ∧
    (((regs [(4, 5)]).withKeys [0x0020]).askKey 5).2.ports.keypad = [] ∧ ((regs [(4, 5)]).askKey 5).2.ports.draws = 1 := by
  decide

theorem test_witness_destination_is_not_VF : (14 : Nibble) ≠ 15 ∧ (0 : Nibble) ≠ 15 := by decide

/-- The carry and borrow clauses at their edges: 255 and 256, equal operands and one less. -/
theorem test_witness_flag_clauses :
    ((regs [(1, 0x80), (2, 0x7F)]).getV 1).toNat + ((regs [(1, 0x80), (2, 0x7F)]).getV 2).toNat = 255 ∧
    ((regs [(1, 0x80), (2, 0x80)]).getV 1).toNat + ((regs [(1, 0x80), (2, 0x80)]).getV 2).toNat = 256 ∧
    ((regs [(1, 5), (2, 5)]).getV 1).toNat ≥ ((regs [(1, 5), (2, 5)]).getV 2).toNat ∧
    ¬ ((regs [(1, 4), (2, 5)]).getV 1).toNat ≥ ((regs [(1, 4), (2, 5)]).getV 2).toNat := by decide

theorem test_witness_AddressRegisterArithmetic : State.reset.params.wellFormed = true := by decide

theorem test_witness_BcdStore : (atI 0xFFD).i.toNat + 2 ≤ 4095 ∧ (atI 0xFFE).i.toNat + 2 > 4095 := by decide

theorem test_witness_BulkStore_BulkLoad : (atI 0xFF0).i.toNat + (15 : Nibble).toNat ≤ 4095 ∧
    (atI 0xFF1).i.toNat + (15 : Nibble).toNat > 4095 ∧ (atI 0xFFF).i.toNat + (0 : Nibble).toNat ≤ 4095 := by decide

theorem test_witness_RandomIsMasked : (State.reset.withRandom [0xB7]).ports.random = 0xB7 :: [] ∧
    State.reset.ports.random = [] := by decide

theorem test_witness_DisplayControlEmits : State.reset.ports.display = .external ∧
    State.reset.withReferenceDisplay.ports.display ≠ .external ∧
    ∀ p ∈ [(Instr.cls, Effect.clear), (.low, .setMode .low), (.high, .setMode .high), (.scr, .scrollRight), (.scl, .scrollLeft)],
      ∃ port : RefDisplay → RefDisplay,
        (p.1 = .cls ∧ p.2 = .clear ∧ port = RefDisplay.clear) ∨
        (p.1 = .low ∧ p.2 = .setMode .low ∧ port = fun d => d.setMode .low) ∨
        (p.1 = .high ∧ p.2 = .setMode .high ∧ port = fun d => d.setMode .high) ∨
        (p.1 = .scr ∧ p.2 = .scrollRight ∧ port = RefDisplay.scrollRight) ∨
        (p.1 = .scl ∧ p.2 = .scrollLeft ∧ port = RefDisplay.scrollLeft) := by
  refine ⟨by decide, by decide, ?_⟩
  simp

/-- Each shape of a sprite, at the last `I` it fits: 8 wide on an external display; 16 by 16 on the reference display in High mode;
none in Low mode. -/
theorem test_witness_DrawTogglesSpriteBits :
    (State.reset.askResolution.1 = State.reset.askResolution.1 ∧ (1 : Nibble) ≠ 0 ∧ (1 : Nibble).toNat * 1 > 0 ∧
      (atI 0xFFF).i.toNat + (1 : Nibble).toNat * 1 - 1 ≤ 4095) ∧
    ((highRes (atI 0xFE0)).askResolution.1 = .high ∧ (highRes (atI 0xFE0)).i.toNat + 16 * 2 - 1 ≤ 4095) ∧
    ((atI 0xFFF).withReferenceDisplay.askResolution.1 = .low ∧ ¬ 0 * 1 > 0) ∧
    ((atI 0xFFF).ports.display = .external ∧ (highRes (atI 0xFE0)).ports.display = .reference (RefDisplay.blank.setMode .high) ∧
      (atI 0xFFF).withReferenceDisplay.ports.display = .reference RefDisplay.blank) :=
  ⟨⟨rfl, by decide⟩, by decide⟩

theorem test_witness_DrawPastMemoryRaises :
    spriteBytes 2 (atI 0xFFF).withReferenceDisplay.askResolution.1 > 0 ∧
    (atI 0xFFF).withReferenceDisplay.i.toNat + spriteBytes 2 (atI 0xFFF).withReferenceDisplay.askResolution.1 - 1 > 4095 ∧
    spriteBytes 0 (highRes (atI 0xFE1)).askResolution.1 > 0 ∧
    (highRes (atI 0xFE1)).i.toNat + spriteBytes 0 (highRes (atI 0xFE1)).askResolution.1 - 1 > 4095 := by decide

/-- Also of DrawTwiceRestoresReferenceDisplay, with coordinates in registers other than VF. -/
theorem test_witness_DrawXorsReferenceDisplay :
    (atI 0xFFF).withReferenceDisplay.ports.display = .reference RefDisplay.blank ∧
    (spriteBytes 1 RefDisplay.blank.mode > 0 ∧
      (atI 0xFFF).withReferenceDisplay.i.toNat + spriteBytes 1 RefDisplay.blank.mode - 1 ≤ 4095) ∧
    (highRes (atI 0xFE0)).ports.display = .reference (RefDisplay.blank.setMode .high) ∧
    (highRes (atI 0xFE0)).i.toNat + spriteBytes 0 (RefDisplay.blank.setMode .high).mode - 1 ≤ 4095 ∧
    (1 : Nibble) ≠ 15 ∧ (2 : Nibble) ≠ 15 := by decide

theorem test_witness_ReferenceScrolls : RefDisplay.blank.mode = .low ∧ (RefDisplay.blank.setMode .high).mode = .high ∧
    (63 < 128 ∧ 31 < 64) ∧ (127 < 128 ∧ 63 < 64) := by decide

theorem test_witness_ReferencePort : State.reset.withReferenceDisplay.ports.display = .reference RefDisplay.blank ∧
    RefDisplay.blank.mode = .low ∧ 127 < 128 ∧ 63 < 64 := by decide

/-- Waiting for key register 5. -/
def waiting : State := { State.reset with es := .awaitingKey 5 }

/-- Halted by EXIT. -/
def exited : State := { State.reset with es := .halted .exit }

theorem test_witness_DeliveredKeyEndsWait_WaitingStepIdles : waiting.es = .awaitingKey 5 := by decide

theorem test_witness_HaltedStepAndStrayKeyDoNothing : exited.es = .halted .exit ∧ (∀ x, State.reset.es ≠ .awaitingKey x) ∧
    (∀ x, exited.es ≠ .awaitingKey x) := by decide

/-- At 0xFFE, the last address a word can be fetched from. -/
theorem test_witness_StepRunsDecodedInstruction :
    (({ State.reset with pc := 0xFFE }).withFetchWord 16 0x6005).es = .ready ∧
    (({ State.reset with pc := 0xFFE }).withFetchWord 16 0x6005).pc.toNat < 0xFFF ∧
    decode ((({ State.reset with pc := 0xFFE }).withFetchWord 16 0x6005).byteAt 0xFFE ++
      (({ State.reset with pc := 0xFFE }).withFetchWord 16 0x6005).byteAt 0xFFF) = .ok (.ldImm 0 5) := by decide

/-- The other two clauses: a fetch at 0xFFF, and a word that does not decode. -/
theorem test_witness_StepRunsDecodedInstruction_errors : ({ State.reset with pc := 0xFFF }).es = .ready ∧
    ({ State.reset with pc := 0xFFF }).pc.toNat = 0xFFF ∧ State.reset.pc.toNat < 0xFFF ∧
    ∀ i, decode (State.reset.byteAt State.reset.pc.toNat ++ State.reset.byteAt (State.reset.pc.toNat + 1)) ≠ .ok i := by
  refine ⟨by decide, by decide, by decide, fun i h => ?_⟩
  have hd : decode (State.reset.byteAt State.reset.pc.toNat ++ State.reset.byteAt (State.reset.pc.toNat + 1)) =
      .error (.unsupportedOpcode 0x0000) := by decide
  rw [hd] at h
  cases h

/-- Each error of the table, at its boundary, and a state in which the instruction raises none. -/
theorem test_witness_ErrorTableIsExact : State.reset.es = .ready ∧ State.reset.out.report = none ∧
    executeError (atDepth 16) (.call 0x300) = some .stackOverflow ∧ executeError (atDepth 15) (.call 0x300) = none ∧
    executeError (atDepth 0) .ret = some .stackUnderflow ∧ executeError (atDepth 1) .ret = none ∧
    executeError (atI 0xFFE) (.ldB 0) = some (.memoryError 4096) ∧ executeError (atI 0xFFD) (.ldB 0) = none ∧
    executeError (atI 0xFF1) (.ldMemVx 15) = some (.memoryError 4096) ∧ executeError (atI 0xFF0) (.ldMemVx 15) = none ∧
    executeError (atI 0xFF1) (.ldVxMem 15) = some (.memoryError 4096) ∧ executeError (atI 0xFF0) (.ldVxMem 15) = none ∧
    executeError (atI 0xFFF).withReferenceDisplay (.drw 0 0 2) = some (.memoryError 4096) ∧
    executeError (highRes (atI 0xFE1)) (.drw 0 0 0) = some (.memoryError 4096) ∧
    executeError (highRes (atI 0xFE0)) (.drw 0 0 0) = none ∧
    executeError (atI 0xFFF).withReferenceDisplay (.drw 0 0 0) = none := by decide

/-- Also of RunTimeMemoryErrorIs4096: a fetch error and, with PC advanced, an error of the execute phase. -/
theorem test_witness_ErrorsArePrecise :
    (∃ t, ({ State.reset with pc := 0xFFF }).es = .ready ∧ step { State.reset with pc := 0xFFF } = .next t ∧
      t.out.report = some (.memoryError 4096)) ∧
    (∃ t, ((atI 0xFFE).withFetchWord 16 0xF033).es = .ready ∧ step ((atI 0xFFE).withFetchWord 16 0xF033) = .next t ∧
      t.out.report = some (.memoryError 4096)) :=
  ⟨⟨_, by decide, rfl, by decide⟩, ⟨_, by decide, rfl, by decide⟩⟩

theorem reset_inv : State.reset.Inv :=
  ⟨by decide, rfl, trivial, fun _ h => (by cases h), fun _ => .inl rfl⟩

theorem waiting_inv : ({ waiting with booting := false }).Inv :=
  ⟨by decide, rfl, trivial, fun _ h => (by cases h), fun h => (by cases h)⟩

theorem exited_inv : ({ exited with booting := false }).Inv :=
  ⟨by decide, rfl, trivial, fun _ h => (by cases h), fun h => (by cases h)⟩

theorem placed_inv (w : Nat) (h : Memory.wf Config.standard (State.reset.withFetchWord 16 w).mem = true) :
    (State.reset.withFetchWord 16 w).Inv :=
  ⟨test_params_standard, h, trivial, fun _ h => (by cases h), fun _ => .inl rfl⟩

/-- The clauses: halted and not reset; a reset; a wait; a step that starts a wait; a halt by EXIT, by an error of a step, by a load
that fails. -/
theorem test_witness_EngineTransitions :
    (∃ t, ({ exited with booting := false }).Inv ∧ hostOp (.deliverKey 1) { exited with booting := false } = .next t) ∧
    (∃ t, ({ exited with booting := false }).Inv ∧ hostOp .reset { exited with booting := false } = .next t) ∧
    (∃ t, ({ waiting with booting := false }).Inv ∧ hostOp .step { waiting with booting := false } = .next t) ∧
    (∃ t, (State.reset.withFetchWord 16 0xF50A).Inv ∧ hostOp .step (State.reset.withFetchWord 16 0xF50A) = .next t ∧
      t.es = .awaitingKey 5) ∧
    (∃ t, (State.reset.withFetchWord 16 0x00FD).Inv ∧ hostOp .step (State.reset.withFetchWord 16 0x00FD) = .next t ∧
      t.es = .halted .exit) ∧
    (∃ t, State.reset.Inv ∧ hostOp .step State.reset = .next t ∧ t.es = .halted (.error (.decodeError 0))) ∧
    (∃ t, State.reset.Inv ∧ hostOp (.load 0xFFF [0, 0]) State.reset = .next t ∧
      t.es = .halted (.error (.memoryError 4096))) :=
  ⟨⟨_, exited_inv, rfl⟩, ⟨_, exited_inv, rfl⟩, ⟨_, waiting_inv, rfl⟩, ⟨_, placed_inv _ (by decide), rfl, by decide⟩,
    ⟨_, placed_inv _ (by decide), rfl, by decide⟩,    ⟨_, reset_inv, rfl, by decide⟩, ⟨_, reset_inv, rfl, by decide⟩⟩

theorem test_witness_LoadCopiesImage : State.reset.booting = true ∧ (0xFFF : Addr).toNat + [(0xAA : Byte)].length ≤ 4096 ∧
    (0xFFF : Addr).toNat + [(0xAA : Byte), 0xBB].length > 4096 := by decide

theorem test_witness_LoadOnlyInBootWindow : ({ State.reset with booting := false }).booting = false ∧
    (∃ t, hostOp .reset waiting = .next t) ∧ (∃ t, hostOp (.load 0x200 [0]) State.reset = .next t) ∧
    (∃ t, hostOp .step State.reset = .next t) ∧ (∃ t, hostOp .tickTimers State.reset = .next t) ∧
    ∃ t, hostOp (.deliverKey 3) State.reset = .next t :=
  ⟨rfl, ⟨_, rfl⟩, ⟨_, rfl⟩, ⟨_, rfl⟩, ⟨_, rfl⟩, ⟨_, rfl⟩⟩

/-- Also of ResetMeetsInvariant; the highest font base that R6 admits is one of the cases. -/
theorem test_witness_ResetValues : Config.standard.wellFormed = true ∧
    Params.wellFormed { Config.standard with fontBase := 0x1B0 } = true ∧
    (0x1AF < (0x1B0 : Addr).toNat ∧ (0x1B0 : Addr).toNat + 80 ≤ 0x200) := by decide

theorem test_witness_ResetFromAnyState : (highRes waiting).ports.display = .reference (RefDisplay.blank.setMode .high) := by
  decide

theorem test_witness_BootRunsLoadedProgram : State.reset.params.origin.toNat + 2 + [(0x00 : Byte), 0xFD].length ≤ 4096 ∧
    ({ Config.standard with origin := 0xFFE }).origin.toNat + 2 + ([] : List Byte).length ≤ 4096 ∧
    (Config.standard.wellFormed = true ∧ Config.standard.fontBase.toNat + 80 ≤ Config.standard.origin.toNat ∧
      Config.standard.origin.toNat < 0xFFF) ∧
    (Params.wellFormed { Config.standard with origin := 0x050 } = true ∧ (0x000 : Addr).toNat + 80 ≤ (0x050 : Addr).toNat) := by
  decide

/-- Also of PcAfterEveryInstruction and SpecialStateWrittenOnlyAsListed: an instruction that answers, with and without error. -/
theorem test_witness_RegistersWrittenOnlyAsListed : (∃ t, exec (.addReg 1 2) State.reset = .next t) ∧
    (∃ t, exec (.drw 1 2 3) State.reset = .next t) ∧ executeError State.reset .ret ≠ none ∧
    executeError State.reset (.addReg 1 2) = none :=
  ⟨⟨_, rfl⟩, ⟨_, rfl⟩, by decide, by decide⟩

theorem test_witness_OtherInstructionsIgnorePorts : asksPorts (.addReg 1 2) = false ∧
    ∃ t, exec (.addReg 1 2) State.reset = .next t :=
  ⟨rfl, ⟨_, rfl⟩⟩

/-- The last `I` each store fits at, and fetches whose bytes lie before, across the edges of, inside, and after the range. -/
theorem test_witness_StoresAreFetchedAtOnce :
    ((0xFFE : Addr).toNat < 0xFFF ∧ (atI 0xFF0).i.toNat + (15 : Nibble).toNat ≤ 4095 ∧ (atI 0xFFD).i.toNat + 2 ≤ 4095) ∧
    ((0xFFE : Addr).toNat = (atI 0xFF0).i.toNat + (14 : Nibble).toNat ∧
      (0xFFE : Addr).toNat + 1 = (atI 0xFF0).i.toNat + (15 : Nibble).toNat) ∧
    ((0xFEF : Addr).toNat < (atI 0xFF0).i.toNat ∧ (0xFEF : Addr).toNat + 1 = (atI 0xFF0).i.toNat + (0 : Nibble).toNat) ∧
    ((0x402 : Addr).toNat = (atI 0x400).i.toNat + 2 ∧ (atI 0x400).i.toNat + 2 < (0x402 : Addr).toNat + 1) ∧
    ((0x401 : Addr).toNat = (atI 0x400).i.toNat + 1 ∧ (0x401 : Addr).toNat + 1 = (atI 0x400).i.toNat + 2) ∧
    ((0x400 : Addr).toNat = (atI 0x400).i.toNat ∧ (0x400 : Addr).toNat + 1 = (atI 0x400).i.toNat + 1) ∧
    ((0x3FF : Addr).toNat < (atI 0x400).i.toNat ∧ (0x3FF : Addr).toNat + 1 = (atI 0x400).i.toNat) ∧
    (atI 0x400).i.toNat + 2 < (0x403 : Addr).toNat ∧ (0x3FE : Addr).toNat + 1 < (atI 0x400).i.toNat := by decide

/-- The three ranges of an unreduced address: inside, the last byte, past the end. -/
theorem test_witness_MemoryPrimitives : ¬ 4094 + 1 > 4095 ∧ (¬ 4095 > 4095 ∧ 4095 + 1 > 4095) ∧ 4096 > 4095 := by decide

theorem test_witness_StepKeepsInvariant : State.reset.Inv ∧ (∃ t, step State.reset = .next t) ∧
    ∃ t, step (State.reset.withFetchWord 16 0xF255) = .next t ∧ t.es = .ready :=
  ⟨reset_inv, ⟨_, rfl⟩, ⟨_, rfl, by decide⟩⟩

theorem test_witness_HostRunKeepsInvariant : State.reset.Inv ∧
    ∃ t, hostRun [.load 0x200 [0x60, 0x05], .step, .tickTimers, .deliverKey 3, .reset] State.reset = .next t :=
  ⟨reset_inv, _, rfl⟩

/-- A word of the exception and one outside it, and two words of one instruction. -/
theorem test_witness_CodecLaws : decode 0x8AB6 = .ok (.shr 10) ∧ decode 0x8A06 = .ok (.shr 10) ∧
    (OpCode.op 0x8AB6 = 8 ∧ OpCode.n 0x8AB6 = 6) ∧ decode 0x8ABE = .ok (.shl 10) ∧ OpCode.n 0x8ABE = 0xE ∧
    decode 0x8AB4 = .ok (.addReg 10 11) ∧ encode (.shr 10) = encode (.shr 10) := by decide

theorem test_witness_DecoderAgreesWithOpcodeMap : decode 0xF165 = .ok (.ldVxMem 1) ∧
    (⟨0xF0FF, 0xF065⟩ : OpcodeRow) ∈ opcodeTable ∧ OpcodeRow.covers ⟨0xF0FF, 0xF065⟩ 0xF165 = true ∧
    ∀ row ∈ opcodeTable, row.covers 0xF166 = false := by decide

theorem test_witness_PlacedWordRunsNext : decodeTableWord 16 0xD123 = some (.drw 1 2 3) ∧
    ({ State.reset with pc := 0xFFF }).pc = 0xFFF ∧ ({ State.reset with pc := 0xFFE }).pc ≠ 0xFFF := by decide

end Sys2Proof.Tests
end

/-! What the execute phase can do, said once for all forty instructions; the facts about single pieces of state are
read off it. -/

namespace Sys2Proof.Machine

/-! ## What the queries and the register writes leave -/

@[simp] theorem State.askKey_display (s : State) (k : Nibble) : (s.askKey k).2.ports.display = s.ports.display := by
  obtain ⟨_, _, _, h⟩ | ⟨_, h⟩ := s.askKey_cases k <;> simp [h]

@[simp] theorem State.askRandom_display (s : State) : s.askRandom.2.ports.display = s.ports.display := by
  obtain ⟨_, _, _, h⟩ | ⟨_, h⟩ := s.askRandom_cases <;> simp [h]

theorem mem_firstRegisters (x r : Nibble) :
    r ∈ (List.range (x.toNat + 1)).map (BitVec.ofNat 4) ↔ r.toNat < x.toNat + 1 := by
  have hx := x.isLt
  simp only [List.mem_map, List.mem_range]
  constructor
  · rintro ⟨k, hk, rfl⟩
    rwa [BitVec.toNat_ofNat, Nat.mod_eq_of_lt (by omega)]
  · exact fun h => ⟨r.toNat, h, by simp⟩

/-- Writing the first registers leaves the later ones. -/
theorem State.setFirstV_sameRegistersBut (s : State) (x : Nibble) (bs : List Byte) (h : bs.length = x.toNat + 1) :
    SameRegistersBut ((List.range (x.toNat + 1)).map (BitVec.ofNat 4)) s (s.setFirstV bs) := by
  intro r hr
  rw [mem_firstRegisters] at hr
  have : bs[r.toNat]? = none := List.getElem?_eq_none (by omega)
  rw [State.getV_setFirstV, this, Option.getD_none]

theorem State.drawPixels_sameRegistersBut (s : State) (ps : List (Nat × Nat)) :
    SameRegistersBut [15] s (s.drawPixels ps) := by
  intro r hr
  rw [State.drawPixels, State.getV_setVF, if_neg (List.ne_of_not_mem_cons hr)]
  exact State.getV_of_v_eq (State.togglePixels_v ps s) r

/-! ## The transfers at `I`, in the terms of the error table (60_exceptions.md R213) -/

theorem exec_ldB_eq (s : State) (x : Nibble) :
    exec (.ldB x) s = .next (if s.i.toNat + 2 > 4095 then s.raise (.memoryError 0x1000)
      else s.storeBytes s.i.toNat (bcdDigits (s.getV x))) := by
  have hlen : (bcdDigits (s.getV x)).length = 3 := rfl
  refine congrArg _ ((s.orRaise_storeRange_i _).trans (if_congr ?_ rfl rfl))
  omega

theorem exec_ldMemVx_eq (s : State) (x : Nibble) :
    exec (.ldMemVx x) s = .next (if s.i.toNat + x.toNat > 4095 then s.raise (.memoryError 0x1000)
      else s.storeBytes s.i.toNat (s.firstV x)) := by
  refine congrArg _ ((s.orRaise_storeRange_i _).trans (if_congr ?_ rfl rfl))
  rw [State.length_firstV]
  omega

theorem exec_ldVxMem_eq (s : State) (x : Nibble) :
    exec (.ldVxMem x) s = .next (if s.i.toNat + x.toNat > 4095 then s.raise (.memoryError 0x1000)
      else s.setFirstV (s.bytesAt s.i.toNat (x.toNat + 1))) := by
  have hi := s.i.isLt
  have hx : exec (.ldVxMem x) s =
      .next (s.orRaise ((s.loadRange s.i.toNat (x.toNat + 1)).map fun bs => s.setFirstV bs)) := rfl
  rw [hx, State.loadRange_eq]
  by_cases h : s.i.toNat + x.toNat > 4095
  · have hmax : max s.i.toNat 4096 = 4096 := by omega
    rw [if_neg (by omega), if_pos h, hmax]
    rfl
  · rw [if_pos (by omega), if_neg h]
    rfl

/-! ## The display requests -/

/-- What a display request must respect: no pixel appears outside the screen (46_display.md R192). -/
def KeepsToScreen (change : RefDisplay → RefDisplay) : Prop :=
  ∀ d, (Display.reference d).confined → (Display.reference (change d)).confined

theorem clear_keepsToScreen : KeepsToScreen RefDisplay.clear := fun _ _ px py _ => Frame.pixel_blank px py

theorem setMode_keepsToScreen (m : Resolution) : KeepsToScreen fun d => d.setMode m :=
  fun _ _ px py _ => Frame.pixel_blank px py

theorem blank_keepsToScreen : KeepsToScreen fun _ => RefDisplay.blank := fun _ _ px py _ => Frame.pixel_blank px py

theorem scrollDown_keepsToScreen (n : Nibble) : KeepsToScreen fun d => d.scrollDown n := by
  intro d hd px py hoff
  rw [RefDisplay.scrollDown_mode] at hoff
  simp [RefDisplay.pixel_scrollDown, hoff, hd px py hoff]

theorem scrollRight_keepsToScreen : KeepsToScreen RefDisplay.scrollRight := by
  intro d hd px py hoff
  rw [RefDisplay.scrollRight_mode] at hoff
  simp [RefDisplay.pixel_scrollRight, hoff, hd px py hoff]

theorem scrollLeft_keepsToScreen : KeepsToScreen RefDisplay.scrollLeft := by
  intro d hd px py hoff
  rw [RefDisplay.scrollLeft_mode] at hoff
  simp [RefDisplay.pixel_scrollLeft, hoff, hd px py hoff]

theorem Display.request_confined {d : Display} {change : RefDisplay → RefDisplay} (hc : KeepsToScreen change)
    (hd : d.confined) : (d.request change).confined := by
  cases d with
  | external => trivial
  | reference r => exact hc r hd

/-! ## The inversion of `exec` -/

/-- What executing an instruction in state `s` can leave. The instructions that only move PC, only write registers or
only make a display request share a constructor, which says what the spec's tables say of them; each other instruction
has its own. -/
inductive Executed (s : State) : Instr → State → Prop
  /-- The error of the table is taken; the count of free answers may have moved. -/
  | raises {i : Instr} {e : EngineError} (n : Nat) (he : executeError s i = some e) :
      Executed s i (State.raise { s with ports := { s.ports with draws := n } } e)
  /-- A jump or a skip. -/
  | moves {i : Instr} (a : Addr) (p : Ports) (he : executeError s i = none) (hpc : a.toNat = pcAfter s i)
      (hp : p.display = s.ports.display) : Executed s i { s with pc := a, ports := p }
  | writesV {i : Instr} (v : Vector Byte 16) (p : Ports) (he : executeError s i = none)
      (hpc : s.pc.toNat = pcAfter s i) (hp : p.display = s.ports.display)
      (hv : SameRegistersBut (writtenRegisters i) s { s with v := v, ports := p }) :
      Executed s i { s with v := v, ports := p }
  | requests {i : Instr} (change : RefDisplay → RefDisplay) (e : Effect) (he : executeError s i = none)
      (hpc : s.pc.toNat = pcAfter s i) (hc : KeepsToScreen change) : Executed s i (s.requestDisplay change e)
  | call (nnn : Addr) (h : s.sp.val < 16) : Executed s (.call nnn)
      { s with pc := nnn, stack := s.stack.set s.sp.val s.pc h, sp := ⟨s.sp.val + 1, by omega⟩ }
  | ret (h : s.sp.val ≠ 0) : Executed s .ret
      { s with pc := s.stack[s.sp.val - 1]'(by omega), sp := ⟨s.sp.val - 1, by omega⟩ }
  | ldI (nnn : Addr) : Executed s (.ldI nnn) (s.setI nnn)
  | addI (x : Nibble) : Executed s (.addI x) (s.setI (s.i + zext12 (s.getV x)))
  | ldF (x : Nibble) : Executed s (.ldF x) (s.setI (fontAddress s.params (lowNibble (s.getV x))))
  | ldDtVx (x : Nibble) : Executed s (.ldDtVx x) (s.setDt (s.getV x))
  | ldStVx (x : Nibble) : Executed s (.ldStVx x) (s.setSt (s.getV x))
  | ldB (x : Nibble) (h : s.i.toNat + 2 ≤ 4095) :
      Executed s (.ldB x) (s.storeBytes s.i.toNat (bcdDigits (s.getV x)))
  | ldMemVx (x : Nibble) (h : s.i.toNat + x.toNat ≤ 4095) :
      Executed s (.ldMemVx x) (s.storeBytes s.i.toNat (s.firstV x))
  | drw (x y n : Nibble) (he : executeError s (.drw x y n) = none) : Executed s (.drw x y n)
      (s.askResolution.2.drawPixels (spritePixels (spriteShape n s.askResolution.1) s.askResolution.1
        (s.bytesAt s.i.toNat (spriteBytes n s.askResolution.1)) (s.getV x).toNat (s.getV y).toNat))
  | ldVxK (x : Nibble) : Executed s (.ldVxK x) (s.setEs (.awaitingKey x))
  | exit : Executed s .exit ((s.setEs (.halted .exit)).emit .exitRequested)

namespace Executed

variable {s t : State} {i : Instr}

/-! ### The shared constructors, as the model's operations write them -/

/-- A condition that is the one of the error table decides between the error and the rest. -/
theorem of_ite {c : Prop} [Decidable c] {e : EngineError} (he : executeError s i = if c then some e else none)
    (ht : ¬c → Executed s i t) : Executed s i (if c then s.raise e else t) := by
  by_cases h : c
  · rw [if_pos h] at he ⊢
    exact .raises s.ports.draws he
  · rw [if_neg h]
    exact ht h

theorem of_skipIf {c : Bool} (p : Ports) (he : executeError s i = none) (hp : p.display = s.ports.display)
    (hpc : (if c then (s.pc.toNat + 2) % 4096 else s.pc.toNat) = pcAfter s i) :
    Executed s i (State.skipIf { s with ports := p } c) := by
  rw [(State.skipIf_pcOnly _ c).1]
  exact .moves _ p he (by rw [State.skipIf_pc_toNat, ← hpc]) hp

theorem of_askKey {c : Bool} (k : Nibble) (he : executeError s i = none)
    (hpc : (if c then (s.pc.toNat + 2) % 4096 else s.pc.toNat) = pcAfter s i) :
    Executed s i ((s.askKey k).2.skipIf c) := by
  obtain ⟨p, h⟩ := s.askKey_frame k
  have hp := s.askKey_display k
  rw [h] at hp ⊢
  exact .of_skipIf p he hp hpc

theorem of_setV (x : Nibble) (b : Byte) (he : executeError s i = none) (hpc : s.pc.toNat = pcAfter s i)
    (hw : writtenRegisters i = [x]) : Executed s i (s.setV x b) :=
  .writesV _ s.ports he hpc rfl (hw ▸ s.setV_sameRegistersBut x b)

theorem of_setVThenFlag (x : Nibble) (b : Byte) (f : Bool) (he : executeError s i = none)
    (hpc : s.pc.toNat = pcAfter s i) (hw : writtenRegisters i = [x, 15]) : Executed s i (s.setVThenFlag x b f) :=
  .writesV _ s.ports he hpc rfl (hw ▸ s.setVThenFlag_sameRegistersBut x b f)

theorem of_askRandom (x : Nibble) (b : Byte) (he : executeError s i = none) (hpc : s.pc.toNat = pcAfter s i)
    (hw : writtenRegisters i = [x]) : Executed s i (s.askRandom.2.setV x b) := by
  obtain ⟨p, h⟩ := s.askRandom_frame
  have hp := s.askRandom_display
  rw [h] at hp ⊢
  exact .writesV _ p he hpc hp (hw ▸ State.setV_sameRegistersBut { s with ports := p } x b)

end Executed

/-- Executing an instruction answers one of the states of `Executed`. -/
theorem exec_executed (i : Instr) (s : State) : ∃ t, exec i s = .next t ∧ Executed s i t := by
  cases i with
  | scd n => exact ⟨_, rfl, .requests _ _ rfl rfl (scrollDown_keepsToScreen n)⟩
  | cls => exact ⟨_, rfl, .requests _ _ rfl rfl clear_keepsToScreen⟩
  | scr => exact ⟨_, rfl, .requests _ _ rfl rfl scrollRight_keepsToScreen⟩
  | scl => exact ⟨_, rfl, .requests _ _ rfl rfl scrollLeft_keepsToScreen⟩
  | low => exact ⟨_, rfl, .requests _ _ rfl rfl (setMode_keepsToScreen .low)⟩
  | high => exact ⟨_, rfl, .requests _ _ rfl rfl (setMode_keepsToScreen .high)⟩
  | exit => exact ⟨_, rfl, .exit⟩
  | ldVxK x => exact ⟨_, rfl, .ldVxK x⟩
  | ret =>
    rw [exec_ret_eq]
    by_cases h : s.sp.val = 0
    · rw [if_pos h]
      exact ⟨_, rfl, .raises s.ports.draws (if_pos h)⟩
    · rw [if_neg h]
      exact ⟨_, rfl, .ret h⟩
  | call nnn =>
    rw [exec_call_eq]
    by_cases h : s.sp.val < 16
    · rw [dif_pos h]
      exact ⟨_, rfl, .call nnn h⟩
    · rw [dif_neg h]
      exact ⟨_, rfl, .raises s.ports.draws (if_pos (by omega))⟩
  | jp nnn => exact ⟨_, rfl, .moves nnn s.ports rfl rfl rfl⟩
  | jpV0 nnn => exact ⟨_, rfl, .moves _ s.ports rfl (by simp [pcAfter, zext12, BitVec.toNat_add]) rfl⟩
  | seImm x kk => exact ⟨_, rfl, .of_skipIf s.ports rfl rfl (by simp [pcAfter])⟩
  | sneImm x kk => exact ⟨_, rfl, .of_skipIf s.ports rfl rfl (by simp [pcAfter])⟩
  | seReg x y => exact ⟨_, rfl, .of_skipIf s.ports rfl rfl (by simp [pcAfter])⟩
  | sneReg x y => exact ⟨_, rfl, .of_skipIf s.ports rfl rfl (by simp [pcAfter])⟩
  | skp x => exact ⟨_, rfl, .of_askKey _ rfl rfl⟩
  | sknp x =>
    refine ⟨_, rfl, .of_askKey _ rfl ?_⟩
    rw [pcAfter]
    cases (s.askKey (lowNibble (s.getV x))).1 <;> rfl
  | ldImm x kk => exact ⟨_, rfl, .of_setV x _ rfl rfl rfl⟩
  | addImm x kk => exact ⟨_, rfl, .of_setV x _ rfl rfl rfl⟩
  | ldReg x y => exact ⟨_, rfl, .of_setV x _ rfl rfl rfl⟩
  | orReg x y => exact ⟨_, rfl, .of_setV x _ rfl rfl rfl⟩
  | andReg x y => exact ⟨_, rfl, .of_setV x _ rfl rfl rfl⟩
  | xorReg x y => exact ⟨_, rfl, .of_setV x _ rfl rfl rfl⟩
  | ldVxDt x => exact ⟨_, rfl, .of_setV x _ rfl rfl rfl⟩
  | rnd x kk => exact ⟨_, rfl, .of_askRandom x _ rfl rfl rfl⟩
  | addReg x y => exact ⟨_, rfl, .of_setVThenFlag x _ _ rfl rfl rfl⟩
  | subReg x y => exact ⟨_, rfl, .of_setVThenFlag x _ _ rfl rfl rfl⟩
  | subnReg x y => exact ⟨_, rfl, .of_setVThenFlag x _ _ rfl rfl rfl⟩
  | shr x => exact ⟨_, rfl, .of_setVThenFlag x _ _ rfl rfl rfl⟩
  | shl x => exact ⟨_, rfl, .of_setVThenFlag x _ _ rfl rfl rfl⟩
  | ldI nnn => exact ⟨_, rfl, .ldI nnn⟩
  | addI x => exact ⟨_, rfl, .addI x⟩
  | ldF x => exact ⟨_, rfl, .ldF x⟩
  | ldDtVx x => exact ⟨_, rfl, .ldDtVx x⟩
  | ldStVx x => exact ⟨_, rfl, .ldStVx x⟩
  | ldB x => exact ⟨_, exec_ldB_eq s x, .of_ite rfl fun h => .ldB x (by omega)⟩
  | ldMemVx x => exact ⟨_, exec_ldMemVx_eq s x, .of_ite rfl fun h => .ldMemVx x (by omega)⟩
  | ldVxMem x =>
    refine ⟨_, exec_ldVxMem_eq s x, .of_ite rfl fun h => .writesV _ s.ports (if_neg h) rfl rfl ?_⟩
    exact s.setFirstV_sameRegistersBut x _ (s.length_bytesAt _ _)
  | drw x y n =>
    obtain ⟨he, h⟩ | ⟨he, h⟩ := exec_drw_cases s x y n
    · obtain ⟨k, hk⟩ := s.askResolution_frame
      rw [h, hk]
      exact ⟨_, rfl, .raises k he⟩
    · exact ⟨_, h, .drw x y n he⟩

theorem executed_of_exec {s t : State} {i : Instr} (h : exec i s = .next t) : Executed s i t := by
  obtain ⟨u, hu, he⟩ := exec_executed i s
  obtain rfl : u = t := by simpa [hu] using h
  exact he

end Sys2Proof.Machine

/-! What an instruction may write, read off `Executed` piece by piece, and the spec's tables of 10_state.md about PC, the
general registers and the special state. -/

namespace Sys2Proof.Machine

/-- Toggling reports no error. -/
@[simp] theorem State.togglePixels_report (ps : List (Nat × Nat)) (s : State) :
    (s.togglePixels ps).2.out.report = s.out.report := by
  obtain ⟨p, es, h⟩ := State.togglePixels_frame ps s
  rw [h]

/-! ## One fact per piece of state -/

namespace Executed

variable {s t : State} {i : Instr}

theorem pc_eq (h : Executed s i t) (he : executeError s i = none) : t.pc.toNat = pcAfter s i := by
  cases h with
  | raises n he' => rw [he] at he'; cases he'
  | moves a p _ hpc _ => exact hpc
  | writesV v p _ hpc _ _ => exact hpc
  | requests c e _ hpc _ => exact hpc
  | drw => simp [State.drawPixels, pcAfter]
  | _ => rfl

theorem registers_same (h : Executed s i t) : SameRegistersBut (writtenRegisters i) s t := by
  cases h with
  | writesV v p _ _ _ hv => exact hv
  | drw x y n _ =>
    intro r hr
    rw [State.drawPixels_sameRegistersBut _ _ r hr]
    exact State.getV_of_v_eq s.askResolution_v r
  | _ => exact fun _ _ => rfl

theorem mem_eq (h : Executed s i t) (hi : ∀ x, i ≠ .ldB x ∧ i ≠ .ldMemVx x) : t.mem = s.mem := by
  cases h with
  | ldB x _ => exact absurd rfl (hi x).1
  | ldMemVx x _ => exact absurd rfl (hi x).2
  | drw => simp [State.drawPixels]
  | _ => rfl

theorem i_eq (h : Executed s i t) (hi : ∀ nnn x, i ≠ .ldI nnn ∧ i ≠ .addI x ∧ i ≠ .ldF x) : t.i = s.i := by
  cases h with
  | ldI nnn => exact absurd rfl (hi nnn 0).1
  | addI x => exact absurd rfl (hi 0 x).2.1
  | ldF x => exact absurd rfl (hi 0 x).2.2
  | drw => simp [State.drawPixels]
  | _ => rfl

theorem dt_eq (h : Executed s i t) (hi : ∀ x, i ≠ .ldDtVx x) : t.dt = s.dt := by
  cases h with
  | ldDtVx x => exact absurd rfl (hi x)
  | drw => simp [State.drawPixels]
  | _ => rfl

theorem st_eq (h : Executed s i t) (hi : ∀ x, i ≠ .ldStVx x) : t.st = s.st := by
  cases h with
  | ldStVx x => exact absurd rfl (hi x)
  | drw => simp [State.drawPixels]
  | _ => rfl

theorem sp_eq (h : Executed s i t) (hi : ∀ nnn, i ≠ .call nnn ∧ i ≠ .ret) : t.sp = s.sp := by
  cases h with
  | call nnn _ => exact absurd rfl (hi nnn).1
  | ret _ => exact absurd rfl (hi 0).2
  | drw => simp [State.drawPixels]
  | _ => rfl

theorem stack_eq (h : Executed s i t) (hi : ∀ nnn, i ≠ .call nnn) : t.stack = s.stack := by
  cases h with
  | call nnn _ => exact absurd rfl (hi nnn)
  | drw => simp [State.drawPixels]
  | _ => rfl

theorem params_eq (h : Executed s i t) : t.params = s.params := by
  cases h with
  | drw => simp [State.drawPixels]
  | _ => rfl

theorem booting_eq (h : Executed s i t) : t.booting = s.booting := by
  cases h with
  | drw => simp [State.drawPixels]
  | _ => rfl

/-- The engine state is kept, but for the key wait, EXIT and an error, which is reported without effects. -/
theorem es_cases (h : Executed s i t) :
    t.es = s.es ∧ t.out.report = s.out.report ∨
    (∃ x, i = .ldVxK x ∧ t.es = .awaitingKey x ∧ t.out.report = s.out.report) ∨
    (i = .exit ∧ t.es = .halted .exit ∧ t.out.report = s.out.report) ∨
    ∃ e, t.es = .halted (.error e) ∧ t.out = { effects := [], report := some e } := by
  cases h with
  | raises n _ => exact .inr (.inr (.inr ⟨_, rfl, rfl⟩))
  | exit => exact .inr (.inr (.inl ⟨rfl, rfl, rfl⟩))
  | ldVxK x => exact .inr (.inl ⟨x, rfl, rfl, rfl⟩)
  | drw => exact .inl (by simp [State.drawPixels])
  | _ => exact .inl ⟨rfl, rfl⟩

end Executed

/-! ## The tables of 10_state.md -/

/-- Settles O46: every instruction answers, and `Executed` gives PC when the table gives no error. -/
theorem pcAfterEveryInstruction : Obligations.PcAfterEveryInstruction := by
  intro s i
  obtain ⟨t, ht, hx⟩ := exec_executed i s
  exact ⟨t, ht, hx.pc_eq⟩

/-- Settles O47, R22's list of destinations. -/
theorem registersWrittenOnlyAsListed : Obligations.RegistersWrittenOnlyAsListed :=
  fun _ _ _ h => (executed_of_exec h).registers_same

/-- Settles O48, piece by piece. -/
theorem specialStateWrittenOnlyAsListed : Obligations.SpecialStateWrittenOnlyAsListed := by
  intro s t i h
  have hx := executed_of_exec h
  exact ⟨fun hi => ⟨hx.mem_eq hi, .of_eq (hx.mem_eq hi) hx.params_eq⟩, hx.i_eq, hx.dt_eq, hx.st_eq, hx.sp_eq,
    hx.stack_eq, hx.params_eq, hx.booting_eq⟩

end Sys2Proof.Machine

/-! The machine's invariant: it holds after reset, every host operation keeps it, hence every schedule does. -/

namespace Sys2Proof.Machine

/-! ## Drawing stays on the screen -/

theorem spritePixels_onScreen {sh : SpriteShape} {res : Resolution} {bytes : List Byte} {x y : Nat} {p : Nat × Nat}
    (hp : p ∈ spritePixels sh res bytes x y) : onScreen res p.1 p.2 = true := by
  simp only [spritePixels, List.mem_flatMap, List.mem_filterMap] at hp
  obtain ⟨r, -, c, -, hp⟩ := hp
  split at hp
  · obtain rfl := Option.some.inj hp
    have hw : 0 < screenWidth res := by cases res <;> decide
    have hh : 0 < screenHeight res := by cases res <;> decide
    simp [onScreen, Nat.mod_lt _ hw, Nat.mod_lt _ hh]
  · cases hp

theorem setPixel_confined {d : RefDisplay} {px py : Nat} (hd : (Display.reference d).confined)
    (hp : onScreen d.mode px py = true) : (Display.reference (d.setPixel px py).2).confined := by
  intro qx qy hq
  have hoff : ¬(qx = px ∧ qy = py ∧ px < 128 ∧ py < 64) := by
    rintro ⟨rfl, rfl, -⟩
    rw [RefDisplay.setPixel_mode, hp] at hq
    cases hq
  rw [RefDisplay.setPixel_fb, Frame.pixel_flip, if_neg hoff]
  exact hd qx qy hq

/-- Toggling positions on the screen of the reference display's mode. -/
theorem State.togglePixels_confined (ps : List (Nat × Nat)) (s : State) (d : RefDisplay)
    (hs : s.ports.display = .reference d) (hd : (Display.reference d).confined)
    (hps : ∀ p ∈ ps, onScreen d.mode p.1 p.2 = true) : (s.togglePixels ps).2.ports.display.confined := by
  induction ps generalizing s d with
  | nil =>
    rw [← hs] at hd
    exact hd
  | cons p ps ih =>
    obtain ⟨-, hports⟩ := State.togglePixel_reference s p.1 p.2 d hs
    exact ih (s.togglePixel p.1 p.2).2 (d.setPixel p.1 p.2).2 (by rw [hports])
      (setPixel_confined hd (hps p (by simp))) fun q hq => hps q (by simp [hq])

/-- A sprite laid out for the resolution that the display reports keeps to its screen. -/
theorem State.drawPixels_confined (s : State) (sh : SpriteShape) (bytes : List Byte) (x y : Nat)
    (hs : s.ports.display.confined) :
    (s.askResolution.2.drawPixels (spritePixels sh s.askResolution.1 bytes x y)).ports.display.confined := by
  obtain ⟨d, hd, ha⟩ | ⟨hd, ha⟩ := s.askResolution_cases
  · rw [hd] at hs
    rw [ha]
    exact State.togglePixels_confined _ s d hd hs fun p hp => spritePixels_onScreen hp
  · rw [ha, State.drawPixels, State.setVF_ports, (State.togglePixels_ports _ s.countDraw).1 hd]
    exact hs

/-! ## The execute phase and the step -/

theorem Executed.confined {s t : State} {i : Instr} (h : Executed s i t) (hs : s.ports.display.confined) :
    t.ports.display.confined := by
  cases h with
  | moves a p _ _ hp => exact hp ▸ hs
  | writesV v p _ _ hp _ => exact hp ▸ hs
  | requests c e _ _ hc => exact Display.request_confined hc hs
  | drw x y n _ => exact s.drawPixels_confined _ _ _ _ hs
  | _ => exact hs

theorem Executed.mem_wf {s t : State} {i : Instr} (h : Executed s i t) (hs : Memory.wf s.params s.mem = true) :
    Memory.wf t.params t.mem = true := by
  rw [h.params_eq]
  cases h with
  | ldB x h => exact Memory.wf_writeList _ _ _ _ (.inr (by show _ + 3 ≤ 4096; omega)) hs
  | ldMemVx x h => exact Memory.wf_writeList _ _ _ _ (.inr (by rw [State.length_firstV]; omega)) hs
  | drw => simpa [State.drawPixels] using hs
  | _ => exact hs

/-- The clause of the invariant about a report holds when nothing is reported. -/
theorem report_of_none {s : State} (h : s.out.report = none) :
    ∀ e, s.out.report = some e → s.es = .halted (.error e) ∧ s.out.effects = [] := by
  simp [h]

/-- The clause about the boot window holds outside it. -/
theorem boot_of_false {s : State} (h : s.booting = false) :
    s.booting = true → s.es = .ready ∨ s.es = .halted (.error (.memoryError 4096)) := by
  simp [h]

/-- Taking an error keeps the invariant outside the boot window. -/
theorem State.Inv.raise {s : State} (hs : s.Inv) (hb : s.booting = false) (e : EngineError) : (s.raise e).Inv :=
  ⟨hs.params, hs.memory, hs.display, fun _ h => by cases h; exact ⟨rfl, rfl⟩, boot_of_false hb⟩

theorem State.Inv.beginStep {s : State} (hs : s.Inv) : s.beginStep.Inv :=
  ⟨hs.params, hs.memory, hs.display, report_of_none rfl, boot_of_false rfl⟩

theorem State.Inv.advance {s : State} (hs : s.Inv) : s.advance.Inv :=
  ⟨hs.params, hs.memory, hs.display, hs.report, hs.boot⟩

/-- The execute phase of a step, which begins with an empty answer and the boot window closed. -/
theorem State.Inv.exec {s t : State} {i : Instr} (hs : s.Inv) (hout : s.out.report = none) (hb : s.booting = false)
    (h : exec i s = .next t) : t.Inv := by
  have hx := executed_of_exec h
  refine ⟨hx.params_eq ▸ hs.params, hx.mem_wf hs.memory, hx.confined hs.display, ?_,
    boot_of_false (hx.booting_eq.trans hb)⟩
  obtain ⟨-, hr⟩ | ⟨_, -, -, hr⟩ | ⟨-, -, hr⟩ | ⟨e, hes, hr⟩ := hx.es_cases
  · exact report_of_none (hr.trans hout)
  · exact report_of_none (hr.trans hout)
  · exact report_of_none (hr.trans hout)
  · rw [hr]
    intro e' he'
    cases he'
    exact ⟨hes, rfl⟩

theorem State.Inv.step {s t : State} (hs : s.Inv) (h : step s = .next t) : t.Inv := by
  obtain ⟨-, hst⟩ | ⟨-, -, hst⟩ | ⟨w, -, -, -, hst⟩ | ⟨w, i, -, -, -, hst⟩ := step_cases s
  · cases hst.symm.trans h
    exact hs.beginStep
  · cases hst.symm.trans h
    exact hs.beginStep.raise rfl _
  · cases hst.symm.trans h
    exact hs.beginStep.advance.raise rfl _
  · exact hs.beginStep.advance.exec rfl rfl (hst.symm.trans h)

/-! ## The other host operations -/

theorem resetWith_inv {p : Params} (hp : p.wellFormed = true) : (State.resetWith p).Inv :=
  ⟨hp, Memory.wf_reset p, trivial, report_of_none rfl, fun _ => .inl rfl⟩

theorem State.Inv.resetOp {s : State} (hs : s.Inv) : s.resetOp.Inv :=
  ⟨hs.params, Memory.wf_reset s.params, Display.request_confined blank_keepsToScreen hs.display, report_of_none rfl,
    fun _ => .inl rfl⟩

theorem State.Inv.tickTimers {s : State} (hs : s.Inv) : s.tickTimers.Inv :=
  ⟨hs.params, hs.memory, hs.display, hs.report, boot_of_false rfl⟩

/-- What delivering a key can do: complete a wait, or nothing but close the boot window. -/
theorem State.deliverKey_cases (s : State) (k : Nibble) :
    (∃ x, s.es = .awaitingKey x ∧
      s.deliverKey k = { (s.setV x (zext8 k)).setEs .ready with booting := false }) ∨
    ((∀ x, s.es ≠ .awaitingKey x) ∧ s.deliverKey k = { s with booting := false }) := by
  unfold State.deliverKey
  split
  · next x h => exact .inl ⟨x, h, rfl⟩
  · next h => exact .inr ⟨by simp [h], rfl⟩
  · next h => exact .inr ⟨by simp [h], rfl⟩

/-- A wait has no report of an error, so completing it loses none. -/
theorem State.Inv.deliverKey {s : State} (hs : s.Inv) (k : Nibble) : (s.deliverKey k).Inv := by
  obtain ⟨x, hes, h⟩ | ⟨-, h⟩ := s.deliverKey_cases k
  · rw [h]
    refine ⟨hs.params, hs.memory, hs.display, fun e he => ?_, boot_of_false rfl⟩
    have hhalt := (hs.report e he).1
    rw [hes] at hhalt
    cases hhalt
  · rw [h]
    exact ⟨hs.params, hs.memory, hs.display, hs.report, boot_of_false rfl⟩

/-- What a load that has a meaning can do: store an image that fits, or take MemoryError(4096) (20_memory.md R69). -/
theorem State.load_cases {s t : State} {origin : Addr} {bytes : List Byte} (h : s.load origin bytes = .next t) :
    s.booting = true ∧
      ((origin.toNat + bytes.length ≤ 4096 ∧
        t = { s.storeBytes origin.toNat bytes with out := { effects := [], report := none } }) ∨
      (4096 < origin.toNat + bytes.length ∧ t = s.raise (.memoryError 4096))) := by
  have ho := origin.isLt
  unfold State.load at h
  split at h
  · next hb =>
    refine ⟨hb, ?_⟩
    rw [State.storeRange_eq] at h
    by_cases hfit : origin.toNat + bytes.length ≤ 4096
    · rw [if_pos (.inr hfit)] at h
      cases h
      exact .inl ⟨hfit, rfl⟩
    · have hmax : max origin.toNat 4096 = 4096 := by omega
      rw [if_neg (by omega), hmax] at h
      cases h
      exact .inr ⟨by omega, rfl⟩
  · cases h

theorem State.Inv.load {s t : State} {origin : Addr} {bytes : List Byte} (hs : s.Inv)
    (h : s.load origin bytes = .next t) : t.Inv := by
  obtain ⟨-, ⟨hfit, rfl⟩ | ⟨-, rfl⟩⟩ := State.load_cases h
  · exact ⟨hs.params, Memory.wf_writeList _ _ _ _ (.inr hfit) hs.memory, hs.display, report_of_none rfl, hs.boot⟩
  · exact ⟨hs.params, hs.memory, hs.display, fun _ he => by cases he; exact ⟨rfl, rfl⟩, fun _ => .inr rfl⟩

theorem State.Inv.hostOp {s t : State} {o : HostOp} (hs : s.Inv) (h : hostOp o s = .next t) : t.Inv := by
  cases o with
  | reset => cases h; exact hs.resetOp
  | load origin bytes => exact hs.load h
  | step => exact hs.step h
  | tickTimers => cases h; exact hs.tickTimers
  | deliverKey k => cases h; exact hs.deliverKey k

/-- A schedule that answers is its first operation and then the rest. -/
theorem hostRun_cons_next {o : HostOp} {os : List HostOp} {s t : State} :
    hostRun (o :: os) s = .next t ↔ ∃ u, hostOp o s = .next u ∧ hostRun os u = .next t := by
  rw [hostRun]
  cases hostOp o s <;> simp

/-! ## The obligations -/

/-- Settles O54, by induction on the schedule. -/
theorem hostRunKeepsInvariant : Obligations.HostRunKeepsInvariant := by
  intro os
  induction os with
  | nil =>
    intro s t hs h
    cases h
    exact hs
  | cons o os ih =>
    intro s t hs h
    obtain ⟨u, hu, hrun⟩ := hostRun_cons_next.1 h
    exact ih u t (hs.hostOp hu) hrun

/-- Settles O52: the base case of the invariant. -/
theorem resetMeetsInvariant : Obligations.ResetMeetsInvariant := fun _ hp => resetWith_inv hp

end Sys2Proof.Machine

/-! The reset values of 10_state.md R51. -/

namespace Sys2Proof.Machine

@[simp] theorem getV_resetWith (p : Params) (x : Nibble) : (State.resetWith p).getV x = 0 := by
  simp [State.getV, State.resetWith]

theorem byteAt_resetWith (p : Params) (a : Nat) : (State.resetWith p).byteAt a = Memory.unlisted p a := rfl

/-- Settles O43: memory lists nothing after reset, so each address reads as the font's byte or 0. -/
theorem resetValues : Obligations.ResetValues := by
  intro p hp
  have hlen : p.fontData.length = 80 := by
    simp only [Params.wellFormed, Params.fontComplete, Bool.and_eq_true, decide_eq_true_eq] at hp
    exact hp.2
  refine ⟨getV_resetWith p, rfl, rfl, rfl, rfl, fun k hk => by simp [State.resetWith], rfl, rfl, fun k hk => ?_,
    fun a ha => ?_⟩
  · rw [byteAt_resetWith, Memory.unlisted, if_pos (by omega), Nat.add_sub_cancel_left, List.getD_eq_getElem _ _ hk]
  · rw [byteAt_resetWith, Memory.unlisted, if_neg (by omega)]

end Sys2Proof.Machine

/-! The transitions of the engine state (10_state.md R36), over all five host operations. -/

namespace Sys2Proof.Machine

/-- The transitions of `ES` from `s` to `t` by a host operation. -/
inductive EngineTransition (s t : State) : HostOp → Prop
  | reset (ht : t.es = .ready) : EngineTransition s t .reset
  | stays {o : HostOp} (ho : o ≠ .reset) (ht : t.es = s.es) : EngineTransition s t o
  | waits {w : OpCode} {x : Nibble} (hs : s.es = .ready) (hw : s.fetch = .ok w) (hd : decode w = .ok (.ldVxK x))
      (ht : t.es = .awaitingKey x) : EngineTransition s t .step
  | resumes {x k : Nibble} (hs : s.es = .awaitingKey x) (ht : t.es = .ready) : EngineTransition s t (.deliverKey k)
  | exits {w : OpCode} (hs : s.es = .ready) (hw : s.fetch = .ok w) (hd : decode w = .ok .exit)
      (ht : t.es = .halted .exit) : EngineTransition s t .step
  | fails {o : HostOp} {e : EngineError} (hs : s.es = .ready)
      (ho : o = .step ∨ ∃ origin bytes, o = .load origin bytes) (ht : t.es = .halted (.error e))
      (hr : t.out.report = some e) : EngineTransition s t o

theorem step_engineTransition {s t : State} (h : step s = .next t) : EngineTransition s t .step := by
  obtain ⟨-, hst⟩ | ⟨hs, -, hst⟩ | ⟨w, hs, -, -, hst⟩ | ⟨w, i, hs, hw, hd, hst⟩ := step_cases s
  · cases hst.symm.trans h
    exact .stays (by simp) rfl
  · cases hst.symm.trans h
    exact .fails hs (.inl rfl) rfl rfl
  · cases hst.symm.trans h
    exact .fails hs (.inl rfl) rfl rfl
  · have hd := (decode_ok_iff w i).2 hd
    have hx := executed_of_exec (hst.symm.trans h)
    obtain ⟨ht, -⟩ | ⟨x, rfl, ht, -⟩ | ⟨rfl, ht, -⟩ | ⟨e, ht, hr⟩ := hx.es_cases
    · exact .stays (by simp) ht
    · exact .waits hs hw hd ht
    · exact .exits hs hw hd ht
    · exact .fails hs (.inl rfl) ht (by rw [hr])

/-- A load acts in the boot window only, where the engine is Ready or already halted by a load that failed. -/
theorem load_engineTransition {s t : State} {origin : Addr} {bytes : List Byte} (hs : s.Inv)
    (h : s.load origin bytes = .next t) : EngineTransition s t (.load origin bytes) := by
  obtain ⟨hb, ⟨-, rfl⟩ | ⟨-, rfl⟩⟩ := State.load_cases h
  · exact .stays (by simp) rfl
  · obtain hready | hhalted := hs.boot hb
    · exact .fails hready (.inr ⟨_, _, rfl⟩) rfl rfl
    · exact .stays (by simp) hhalted.symm

theorem deliverKey_engineTransition (s : State) (k : Nibble) : EngineTransition s (s.deliverKey k) (.deliverKey k) := by
  obtain ⟨x, hs, h⟩ | ⟨-, h⟩ := s.deliverKey_cases k
  · rw [h]
    exact .resumes hs rfl
  · rw [h]
    exact .stays (by simp) rfl

theorem hostOp_engineTransition {s t : State} {o : HostOp} (hs : s.Inv) (h : hostOp o s = .next t) :
    EngineTransition s t o := by
  cases o with
  | reset => cases h; exact .reset rfl
  | load origin bytes => exact load_engineTransition hs h
  | step => exact step_engineTransition h
  | tickTimers => cases h; exact .stays (by simp) rfl
  | deliverKey k => cases h; exact deliverKey_engineTransition s k

namespace EngineTransition

variable {s t : State} {o : HostOp}

theorem halted_stays (h : EngineTransition s t o) {c : HaltCause} (hc : s.es = .halted c) (ho : o ≠ .reset) :
    t.es = .halted c := by
  cases h with
  | reset => exact absurd rfl ho
  | stays _ ht => rw [ht, hc]
  | waits hs | resumes hs | exits hs | fails hs => rw [hs] at hc; cases hc

theorem ready_of_reset (h : EngineTransition s t .reset) : t.es = .ready := by
  cases h with
  | reset ht => exact ht
  | stays ho => exact absurd rfl ho
  | fails _ ho => obtain ho | ⟨_, _, ho⟩ := ho <;> cases ho

theorem wait_ends (h : EngineTransition s t o) {x : Nibble} (hx : s.es = .awaitingKey x) :
    t.es = .awaitingKey x ∨ t.es = .ready ∧ (o = .reset ∨ ∃ k, o = .deliverKey k) := by
  cases h with
  | reset ht => exact .inr ⟨ht, .inl rfl⟩
  | stays _ ht => exact .inl (ht.trans hx)
  | resumes _ ht => exact .inr ⟨ht, .inr ⟨_, rfl⟩⟩
  | waits hs | exits hs | fails hs => rw [hs] at hx; cases hx

theorem wait_starts (h : EngineTransition s t o) {x : Nibble} (hx : t.es = .awaitingKey x) :
    s.es = .awaitingKey x ∨ s.es = .ready ∧ o = .step ∧ ∃ w, s.fetch = .ok w ∧ decode w = .ok (.ldVxK x) := by
  cases h with
  | stays _ ht => exact .inl (ht.symm.trans hx)
  | waits hs hw hd ht =>
    cases ht.symm.trans hx
    exact .inr ⟨hs, rfl, _, hw, hd⟩
  | reset ht | resumes _ ht | exits _ _ _ ht | fails _ _ ht => rw [ht] at hx; cases hx

theorem halt_starts (h : EngineTransition s t o) {c : HaltCause} (hc : t.es = .halted c) :
    s.es = .halted c ∨ s.es = .ready ∧
      (o = .step ∧ c = .exit ∧ (∃ w, s.fetch = .ok w ∧ decode w = .ok .exit) ∨
        (o = .step ∨ ∃ origin bytes, o = .load origin bytes) ∧ ∃ e, c = .error e ∧ t.out.report = some e) := by
  cases h with
  | stays _ ht => exact .inl (ht.symm.trans hc)
  | exits hs hw hd ht =>
    cases ht.symm.trans hc
    exact .inr ⟨hs, .inl ⟨rfl, rfl, _, hw, hd⟩⟩
  | fails hs ho ht hr =>
    cases ht.symm.trans hc
    exact .inr ⟨hs, .inr ⟨ho, _, rfl, hr⟩⟩
  | reset ht | waits _ _ _ ht | resumes _ ht => rw [ht] at hc; cases hc

end EngineTransition

/-- Settles O39: each clause read off the list of transitions. -/
theorem engineTransitions : Obligations.EngineTransitions := by
  intro s t o hs h
  have ht := hostOp_engineTransition hs h
  exact ⟨fun _ => ht.halted_stays, fun ho => (ho ▸ ht).ready_of_reset, fun _ => ht.wait_ends, fun _ => ht.wait_starts,
    fun _ => ht.halt_starts⟩

end Sys2Proof.Machine

/-! Memory (20_memory.md): what the access primitives answer, the bytes a store leaves and a fetch then reads, and the
boot window in which an image is loaded. -/

namespace Sys2Proof.Machine

/-! ## The access primitives (R63 to R65) -/

theorem checkRange_one (a : Nat) :
    checkRange a 1 = if a > 4095 then .error (.memoryError a) else .ok () := by
  by_cases h : a > 4095
  · rw [if_pos h, checkRange_error (by omega) (by omega), max_eq_left (by omega)]
  · rw [if_neg h, checkRange_ok (by omega)]

/-- The second address does not wrap, so it is the one in error where the first is the last of the store. -/
theorem checkRange_two (a : Nat) :
    checkRange a 2 = if a > 4095 then .error (.memoryError a)
      else if a + 1 > 4095 then .error (.memoryError (a + 1)) else .ok () := by
  by_cases h : a > 4095
  · rw [if_pos h, checkRange_error (by omega) (by omega), max_eq_left (by omega)]
  · rw [if_neg h]
    by_cases h1 : a + 1 > 4095
    · have hmax : max a 4096 = a + 1 := by omega
      rw [if_pos h1, checkRange_error (by omega) (by omega), hmax]
    · rw [if_neg h1, checkRange_ok (by omega)]

theorem State.memRead1_eq (s : State) (a : Nat) :
    s.memRead1 a = if a > 4095 then .error (.memoryError a) else .ok (s.byteAt a) := by
  rw [State.memRead1, checkRange_one]
  split <;> rfl

theorem State.memRead2_eq (s : State) (a : Nat) :
    s.memRead2 a = if a > 4095 then .error (.memoryError a)
      else if a + 1 > 4095 then .error (.memoryError (a + 1)) else .ok (s.byteAt a ++ s.byteAt (a + 1)) := by
  rw [State.memRead2, checkRange_two]
  split
  · rfl
  · split <;> rfl

theorem State.memWrite1_eq (s : State) (a : Nat) (b : Byte) :
    s.memWrite1 a b = if a > 4095 then .error (.memoryError a) else .ok (s.storeBytes a [b]) := by
  show (checkRange a 1).map _ = _
  rw [checkRange_one]
  split <;> rfl

theorem State.memWrite2_eq (s : State) (a : Nat) (w : OpCode) :
    s.memWrite2 a w = if a > 4095 then .error (.memoryError a)
      else if a + 1 > 4095 then .error (.memoryError (a + 1)) else .ok (s.storeBytes a [w.highByte, w.kk]) := by
  show (checkRange a 2).map _ = _
  rw [checkRange_two]
  split
  · rfl
  · split <;> rfl

/-- A word is big-endian (R64). -/
theorem toNat_append_bytes (hi lo : Byte) : (hi ++ lo : OpCode).toNat = hi.toNat * 256 + lo.toNat := by
  have hlo := lo.isLt
  rw [BitVec.toNat_append, ← Nat.shiftLeft_add_eq_or_of_lt hlo, Nat.shiftLeft_eq]

/-! ## The bytes a store leaves -/

theorem State.byteAt_storeBytes_inside (s : State) (a : Nat) (bs : List Byte) (k : Nat) (h : k < bs.length) :
    (s.storeBytes a bs).byteAt (a + k) = bs[k] := by
  rw [State.byteAt_storeBytes, dif_pos (by omega)]
  simp only [Nat.add_sub_cancel_left]

/-- What LD [I],Vx leaves at each address. -/
theorem State.byteAt_storeBytes_firstV (s : State) (a : Nat) (x : Nibble) (b : Nat) :
    (∀ k : Nibble, k.toNat ≤ x.toNat → b = a + k.toNat → (s.storeBytes a (s.firstV x)).byteAt b = s.getV k) ∧
    (b < a ∨ a + x.toNat < b → (s.storeBytes a (s.firstV x)).byteAt b = s.byteAt b) := by
  have hlen := s.length_firstV x
  refine ⟨?_, fun h => (s.storeBytes_memoryOnly a _).2 b (by omega)⟩
  rintro k hk rfl
  rw [State.byteAt_storeBytes_inside s a _ k.toNat (by omega), State.getElem_firstV]

/-- What LD B,Vx leaves at each address: the three decimal digits of the value, the old byte elsewhere. -/
theorem State.byteAt_storeBytes_bcdDigits (s : State) (a : Nat) (v : Byte) (b : Nat) :
    (b = a → ((s.storeBytes a (bcdDigits v)).byteAt b).toNat = v.toNat / 100) ∧
    (b = a + 1 → ((s.storeBytes a (bcdDigits v)).byteAt b).toNat = v.toNat / 10 % 10) ∧
    (b = a + 2 → ((s.storeBytes a (bcdDigits v)).byteAt b).toNat = v.toNat % 10) ∧
    (b < a ∨ a + 2 < b → (s.storeBytes a (bcdDigits v)).byteAt b = s.byteAt b) := by
  have hlen : (bcdDigits v).length = 3 := rfl
  have hdigit := s.byteAt_storeBytes_inside a (bcdDigits v)
  refine ⟨?_, ?_, ?_, fun h => (s.storeBytes_memoryOnly a _).2 b (by omega)⟩
  · rintro rfl
    exact (congrArg BitVec.toNat (hdigit 0 (by omega))).trans (BitVec.toNat_udiv ..)
  · rintro rfl
    rw [hdigit 1 (by omega)]
    simp [bcdDigits]
  · rintro rfl
    rw [hdigit 2 (by omega)]
    simp [bcdDigits]

/-- The fetch at an address below 0xFFF, wherever PC stood before (R67). -/
theorem State.fetch_at (s : State) (a : Addr) (h : a.toNat < 0xFFF) :
    ({ s with pc := a }).fetch = .ok (s.byteAt a.toNat ++ s.byteAt (a.toNat + 1)) :=
  (State.fetch_eq _).trans (if_pos h)

theorem exec_ldMemVx_of_fits {s : State} {x : Nibble} (h : s.i.toNat + x.toNat ≤ 4095) :
    exec (.ldMemVx x) s = .next (s.storeBytes s.i.toNat (s.firstV x)) := by
  rw [exec_ldMemVx_eq, if_neg (by omega)]

theorem exec_ldB_of_fits {s : State} {x : Nibble} (h : s.i.toNat + 2 ≤ 4095) :
    exec (.ldB x) s = .next (s.storeBytes s.i.toNat (bcdDigits (s.getV x))) := by
  rw [exec_ldB_eq, if_neg (by omega)]

/-! ## The errors of a step (R66) -/

/-- `I` is a 12-bit address, so the first address past the end of an instruction's access is 4096. -/
theorem executeError_memoryError {s : State} {i : Instr} {a : Nat} (h : executeError s i = some (.memoryError a)) :
    a = 4096 := by
  cases i with
  | call | ret =>
    rw [executeError] at h
    split at h <;> cases h
  | ldB | ldMemVx | ldVxMem | drw =>
    rw [executeError] at h
    split at h
    · cases h; rfl
    · cases h
  | _ => cases h

/-- The execute phase reports an error only where the table gives it. -/
theorem Executed.report_cases {s t : State} {i : Instr} (h : Executed s i t) :
    t.out.report = s.out.report ∨ ∃ e, executeError s i = some e ∧ t.out.report = some e := by
  cases h with
  | raises n he => exact .inr ⟨_, he, rfl⟩
  | drw => exact .inl (by simp [State.drawPixels])
  | _ => exact .inl rfl

/-! ## Loading an image, and the boot window (R69, R70) -/

/-- In the boot window a load has a meaning, so `State.load_cases` says what it answers. -/
theorem State.load_answers {s : State} (origin : Addr) (bytes : List Byte) (hb : s.booting = true) :
    ∃ t, s.load origin bytes = .next t :=
  ⟨_, if_pos hb⟩

theorem State.load_refused {s : State} (origin : Addr) (bytes : List Byte) (hb : s.booting = false) :
    s.load origin bytes = .refused .loadAfterBoot :=
  if_neg (by simp [hb])

theorem load_booting {s t : State} {origin : Addr} {bytes : List Byte} (h : s.load origin bytes = .next t) :
    t.booting = s.booting := by
  obtain ⟨-, ⟨-, rfl⟩ | ⟨-, rfl⟩⟩ := State.load_cases h <;> rfl

theorem step_booting {s t : State} (h : step s = .next t) : t.booting = false := by
  obtain ⟨-, hst⟩ | ⟨-, -, hst⟩ | ⟨w, -, -, -, hst⟩ | ⟨w, i, -, -, -, hst⟩ := step_cases s
  · cases hst.symm.trans h; rfl
  · cases hst.symm.trans h; rfl
  · cases hst.symm.trans h; rfl
  · exact (executed_of_exec (hst.symm.trans h)).booting_eq

theorem deliverKey_booting (s : State) (k : Nibble) : (s.deliverKey k).booting = false := by
  obtain ⟨x, -, h⟩ | ⟨-, h⟩ := s.deliverKey_cases k <;> rw [h]

/-! ## The obligations -/

/-- Settles O38: the fetch fails at 0xFFF only, and the execute phase reports by the table. -/
theorem runTimeMemoryErrorIs4096 : Obligations.RunTimeMemoryErrorIs4096 := by
  intro s t a h hr
  obtain ⟨-, hst⟩ | ⟨-, -, hst⟩ | ⟨w, -, -, -, hst⟩ | ⟨w, i, -, -, -, hst⟩ := step_cases s
  · cases hst.symm.trans h; cases hr
  · cases hst.symm.trans h; cases hr; rfl
  · cases hst.symm.trans h; cases hr
  · obtain hnone | ⟨e, he, hre⟩ := (executed_of_exec (hst.symm.trans h)).report_cases
    · cases hnone.symm.trans hr
    · cases hre.symm.trans hr
      exact executeError_memoryError he

/-- Settles O41, by the two cases of a load that has a meaning. -/
theorem loadCopiesImage : Obligations.LoadCopiesImage := by
  intro s origin bytes hb
  obtain ⟨t, ht⟩ := State.load_answers origin bytes hb
  obtain ⟨-, ⟨hfit, rfl⟩ | ⟨hpast, rfl⟩⟩ := State.load_cases ht
  · exact ⟨fun _ => ⟨_, ht, s.byteAt_storeBytes_inside origin.toNat bytes,
      (s.storeBytes_memoryOnly origin.toNat bytes).2, rfl⟩, fun hpast => absurd hfit (by omega)⟩
  · exact ⟨fun hfit => absurd hpast (by omega), fun _ => ⟨_, ht, s.raise_errorTaken _⟩⟩

/-- Settles O50: the fetch reads two bytes of the store's result, each as `byteAt_storeBytes_firstV` or
`byteAt_storeBytes_bcdDigits` says. -/
theorem storesAreFetchedAtOnce : Obligations.StoresAreFetchedAtOnce := by
  intro s x a ha
  constructor
  · intro hfit
    obtain ⟨hiIn, hiOut⟩ := s.byteAt_storeBytes_firstV s.i.toNat x a.toNat
    obtain ⟨loIn, loOut⟩ := s.byteAt_storeBytes_firstV s.i.toNat x (a.toNat + 1)
    exact ⟨_, _, _, exec_ldMemVx_of_fits hfit, State.fetch_at _ a ha, fun k hk => ⟨hiIn k hk, loIn k hk⟩, hiOut, loOut⟩
  · intro hfit
    obtain ⟨hi0, hi1, hi2, hiOut⟩ := s.byteAt_storeBytes_bcdDigits s.i.toNat (s.getV x) a.toNat
    obtain ⟨lo0, lo1, lo2, loOut⟩ := s.byteAt_storeBytes_bcdDigits s.i.toNat (s.getV x) (a.toNat + 1)
    exact ⟨_, _, _, exec_ldB_of_fits hfit, State.fetch_at _ a ha, hi0, hi1, hi2, lo0, lo1, lo2, hiOut, loOut⟩

/-- Settles O42, operation by operation. -/
theorem loadOnlyInBootWindow : Obligations.LoadOnlyInBootWindow := by
  refine ⟨fun s origin bytes hb => State.load_refused origin bytes hb, fun s t o h => ?_⟩
  cases o with
  | reset => cases h; rfl
  | load origin bytes => exact load_booting h
  | step => exact step_booting h
  | tickTimers => cases h; rfl
  | deliverKey k => cases h; exact deliverKey_booting s k

/-- Settles O51: each primitive's answer, and the bytes of the state a write answers. -/
theorem memoryPrimitives : Obligations.MemoryPrimitives := by
  intro s a
  refine ⟨s.memRead1_eq a, ⟨_, s.memRead2_eq a, toNat_append_bytes _ _⟩, fun b => ?_, fun w => ?_⟩
  · exact ⟨_, s.memWrite1_eq a b, s.byteAt_storeBytes_inside a [b] 0 (by simp), s.storeBytes_memoryOnly a [b]⟩
  · have hbyte := s.byteAt_storeBytes_inside a [w.highByte, w.kk]
    exact ⟨_, s.memWrite2_eq a w, (congrArg BitVec.toNat (hbyte 0 (by simp))).trans w.toNat_highByte,
      (congrArg BitVec.toNat (hbyte 1 (by simp))).trans w.toNat_kk, s.storeBytes_memoryOnly a _⟩

end Sys2Proof.Machine

/-! The encoding (30_encoding.md): the fields of a word and their replacement, the decoder and the encoder as inverses but for
the shift words (D4), and the decoder read as the opcode map. -/

namespace Sys2Proof

/-! ## Fields of a masked word -/

section
variable (w m : OpCode)

theorem OpCode.op_and : OpCode.op (w &&& m) = w.op &&& m.op := BitVec.extractLsb'_and
theorem OpCode.n_and : OpCode.n (w &&& m) = w.n &&& m.n := BitVec.extractLsb'_and
theorem OpCode.kk_and : OpCode.kk (w &&& m) = w.kk &&& m.kk := BitVec.extractLsb'_and
theorem OpCode.prefix12_and : OpCode.prefix12 (w &&& m) = w.prefix12 &&& m.prefix12 := BitVec.extractLsb'_and

end

/-! ## A word from the fields the decoder has tested and those it hands on (R91) -/

section
variable {w : OpCode} {a d : Nibble} {k : Byte} {p : BitVec 12}

theorem formatPN_fields (hp : w.prefix12 = p) : formatPN p w.n = w := by subst hp; exact w.eq_pn.symm
theorem formatA_fields (ha : w.op = a) : formatA a w.nnn = w := by subst ha; exact w.eq_a.symm
theorem formatXK_fields (ha : w.op = a) : formatXS a w.x w.kk = w := by subst ha; exact w.eq_xs.symm
theorem formatXS_fields (ha : w.op = a) (hk : w.kk = k) : formatXS a w.x k = w := by subst hk; exact formatXK_fields ha
theorem formatXYN_fields (ha : w.op = a) : formatXYS a w.x w.y w.n = w := by subst ha; exact w.eq_xys.symm
theorem formatXYS_fields (ha : w.op = a) (hd : w.n = d) : formatXYS a w.x w.y d = w := by subst hd; exact formatXYN_fields ha

end

/-! ## The shift words (R103) -/

/-- The words whose `y` the decoder ignores. -/
abbrev OpCode.IsShift (w : OpCode) : Prop := w.op = 8 ∧ (w.n = 6 ∨ w.n = 0xE)

theorem OpCode.and_FF0F (w : OpCode) : w &&& 0xFF0F = w.op ++ w.x ++ 0#4 ++ w.n := by
  have h : (w.op ++ w.x ++ w.y ++ w.n) &&& (0xF#4 ++ 0xF#4 ++ 0x0#4 ++ 0xF#4) = w.op ++ w.x ++ 0#4 ++ w.n := by
    rw [BitVec.and_append, BitVec.and_append, BitVec.and_append, nibble_keep, nibble_keep, nibble_keep, nibble_drop]
  rwa [← w.eq_xys] at h

/-- Clearing `y` leaves the fields that make a word a shift word. -/
theorem OpCode.isShift_and_FF0F (w : OpCode) : OpCode.IsShift (w &&& 0xFF0F) ↔ w.IsShift := by
  rw [w.and_FF0F, OpCode.IsShift, OpCode.op_xys, OpCode.n_xys]

theorem decode_of_isShift {w : OpCode} (h : w.IsShift) :
    ∃ i, decode w = .ok i ∧ encode i = w &&& 0xFF0F ∧ (opcodeRow i).mask = 0xF00F := by
  obtain ⟨hop, hn | hn⟩ := h
  · refine ⟨.shr w.x, by simp [decode, decodeOp, decodeGroup8, hop, hn], ?_, rfl⟩
    rw [w.and_FF0F, hop, hn]; rfl
  · refine ⟨.shl w.x, by simp [decode, decodeOp, decodeGroup8, hop, hn], ?_, rfl⟩
    rw [w.and_FF0F, hop, hn]; rfl

/-! ## The encoder undoes the decoder, group by group (R96 to R99) -/

section
variable {w : OpCode} {i : Instr}

theorem encode_decodeGroup0 (h : decodeGroup0 w = some i) : encode i = w := by
  unfold decodeGroup0 at h
  split_ifs at h with hp <;> cases h
  · exact formatPN_fields hp
  all_goals exact Eq.symm ‹w = _›

theorem encode_decodeGroup8 (hop : w.op = 8) (h : decodeGroup8 w = some i) (hw : ¬ w.IsShift) : encode i = w := by
  have h6 : w.n ≠ 0x6#4 := fun hn => hw ⟨hop, .inl hn⟩
  have hE : w.n ≠ 0xE#4 := fun hn => hw ⟨hop, .inr hn⟩
  unfold decodeGroup8 at h
  rw [if_neg h6, if_neg hE] at h
  split_ifs at h <;> cases h <;> exact formatXYS_fields hop ‹_›

theorem encode_decodeGroupE (hop : w.op = 0xE) (h : decodeGroupE w = some i) : encode i = w := by
  unfold decodeGroupE at h
  split_ifs at h <;> cases h <;> exact formatXS_fields hop ‹_›

theorem encode_decodeGroupF (hop : w.op = 0xF) (h : decodeGroupF w = some i) : encode i = w := by
  unfold decodeGroupF at h
  split_ifs at h <;> cases h <;> exact formatXS_fields hop ‹_›

end

/-- A legal word is the encoding of its instruction, but for the shift words: the rows of R95 in order, each leaving the rest
of the tests. -/
theorem encode_of_decode {w : OpCode} {i : Instr} (h : decode w = .ok i) (hw : ¬ w.IsShift) : encode i = w := by
  rw [decode_ok_iff] at h
  unfold decodeOp at h
  obtain ⟨-, h⟩ | ⟨h0, h⟩ := ite_eq_iff.1 h
  · exact encode_decodeGroup0 h
  obtain ⟨ho, ⟨⟩⟩ | ⟨h1, h⟩ := ite_eq_iff.1 h
  · exact formatA_fields ho
  obtain ⟨ho, ⟨⟩⟩ | ⟨h2, h⟩ := ite_eq_iff.1 h
  · exact formatA_fields ho
  obtain ⟨ho, ⟨⟩⟩ | ⟨h3, h⟩ := ite_eq_iff.1 h
  · exact formatXK_fields ho
  obtain ⟨ho, ⟨⟩⟩ | ⟨h4, h⟩ := ite_eq_iff.1 h
  · exact formatXK_fields ho
  obtain ⟨ho, h⟩ | ⟨h5, h⟩ := ite_eq_iff.1 h
  · obtain ⟨hn, ⟨⟩⟩ | ⟨-, ⟨⟩⟩ := ite_eq_iff.1 h
    exact formatXYS_fields ho hn
  obtain ⟨ho, ⟨⟩⟩ | ⟨h6, h⟩ := ite_eq_iff.1 h
  · exact formatXK_fields ho
  obtain ⟨ho, ⟨⟩⟩ | ⟨h7, h⟩ := ite_eq_iff.1 h
  · exact formatXK_fields ho
  obtain ⟨ho, h⟩ | ⟨h8, h⟩ := ite_eq_iff.1 h
  · exact encode_decodeGroup8 ho h hw
  obtain ⟨ho, h⟩ | ⟨h9, h⟩ := ite_eq_iff.1 h
  · obtain ⟨hn, ⟨⟩⟩ | ⟨-, ⟨⟩⟩ := ite_eq_iff.1 h
    exact formatXYS_fields ho hn
  obtain ⟨ho, ⟨⟩⟩ | ⟨hA, h⟩ := ite_eq_iff.1 h
  · exact formatA_fields ho
  obtain ⟨ho, ⟨⟩⟩ | ⟨hB, h⟩ := ite_eq_iff.1 h
  · exact formatA_fields ho
  obtain ⟨ho, ⟨⟩⟩ | ⟨hC, h⟩ := ite_eq_iff.1 h
  · exact formatXK_fields ho
  obtain ⟨ho, ⟨⟩⟩ | ⟨hD, h⟩ := ite_eq_iff.1 h
  · exact formatXYN_fields ho
  obtain ⟨ho, h⟩ | ⟨hE, h⟩ := ite_eq_iff.1 h
  · exact encode_decodeGroupE ho h
  have hF : w.op = 0xF := by bv_omega
  exact encode_decodeGroupF hF h

theorem encode_of_decode_isShift {w : OpCode} {i : Instr} (h : decode w = .ok i) (hw : w.IsShift) :
    encode i = w &&& 0xFF0F ∧ (opcodeRow i).mask = 0xF00F := by
  obtain ⟨j, hj, hshift⟩ := decode_of_isShift hw
  cases h.symm.trans hj
  exact hshift

/-! ## The decoder undoes the encoder (R105 (a)) -/

theorem decode_encode (i : Instr) : decode (encode i) = .ok i := by
  rw [decode_ok_iff]
  cases i with
  | scd n => simp [encode, formatPN, decodeOp, OpCode.op_pn_0, decodeGroup0]
  | cls | ret | scr | scl | exit | low | high => rfl
  | jp | call | ldI | jpV0 => simp [encode, formatA, decodeOp]
  | seImm | sneImm | ldImm | addImm | rnd => simp [encode, formatXS, decodeOp]
  | seReg | sneReg | drw => simp [encode, formatXYS, decodeOp]
  | ldReg | orReg | andReg | xorReg | addReg | subReg | shr | subnReg | shl =>
    simp [encode, formatXYS, decodeOp, decodeGroup8]
  | skp | sknp => simp [encode, formatXS, decodeOp, decodeGroupE]
  | ldVxDt | ldVxK | ldDtVx | ldStVx | addI | ldF | ldB | ldMemVx | ldVxMem =>
    simp [encode, formatXS, decodeOp, decodeGroupF]

theorem encode_injective : Function.Injective encode := fun i j h =>
  Except.ok.inj ((decode_encode i).symm.trans (h ▸ decode_encode j))

/-- R105 (c): the words of one instruction differ in the `y` of a shift only. -/
theorem eq_or_isShift_of_decode_eq {w w' : OpCode} {i : Instr} (h : decode w = .ok i) (h' : decode w' = .ok i) :
    w = w' ∨ w.IsShift ∧ w &&& 0xFF0F = w' &&& 0xFF0F := by
  by_cases hw : w.IsShift
  · right
    have henc := (encode_of_decode_isShift h hw).1
    by_cases hw' : w'.IsShift
    · exact ⟨hw, henc.symm.trans (encode_of_decode_isShift h' hw').1⟩
    · have hmask : w &&& 0xFF0F = w' := henc.symm.trans (encode_of_decode h' hw')
      exact ⟨hw, by rw [← hmask, BitVec.and_assoc, BitVec.and_self]⟩
  · left
    have henc := encode_of_decode h hw
    have hw' : ¬ w'.IsShift := fun hs => hw <| by
      rw [← henc, (encode_of_decode_isShift h' hs).1]
      exact w'.isShift_and_FF0F.2 hs
    exact henc.symm.trans (encode_of_decode h' hw')

/-- Settles O55, law by law: the shift words are those whose `y` the decoder ignores. -/
theorem codecLaws : Obligations.CodecLaws := by
  refine ⟨decode_encode, fun w i h => ?_, fun w w' i h h' => ?_, fun i j h => encode_injective h⟩
  · split_ifs with hw
    · exact (encode_of_decode_isShift h hw).1
    · exact encode_of_decode h hw
  · obtain heq | ⟨⟨hop, hn⟩, hmask⟩ := eq_or_isShift_of_decode_eq h h'
    · exact .inl heq
    · exact .inr ⟨hop, hn, hmask⟩

/-! ## The fields a row of the opcode map fixes (R100) -/

section
variable {w p : OpCode}

theorem OpCode.op_of_and_F000 (h : w &&& 0xF000 = p) : w.op = p.op := by
  rw [← h, OpCode.op_and]; exact (nibble_keep _).symm

theorem OpCode.op_n_of_and_F00F (h : w &&& 0xF00F = p) : w.op = p.op ∧ w.n = p.n := by
  rw [← h, OpCode.op_and, OpCode.n_and]; exact ⟨(nibble_keep _).symm, (nibble_keep _).symm⟩

theorem OpCode.op_kk_of_and_F0FF (h : w &&& 0xF0FF = p) : w.op = p.op ∧ w.kk = p.kk := by
  rw [← h, OpCode.op_and, OpCode.kk_and]; exact ⟨(nibble_keep _).symm, (byte_keep _).symm⟩

theorem OpCode.op_prefix12_of_and_FFF0 (h : w &&& 0xFFF0 = p) : w.op = p.op ∧ w.prefix12 = p.prefix12 := by
  rw [← h, OpCode.op_and, OpCode.prefix12_and]; exact ⟨(nibble_keep _).symm, (addr_keep _).symm⟩

theorem OpCode.eq_of_and_FFFF (h : w &&& 0xFFFF = p) : w = p := BitVec.and_allOnes.symm.trans h

end

/-! ## The decoder and the opcode map -/

/-- A word that an instruction's row covers decodes to an instruction of that row: the row fixes all that the decoder tests. -/
theorem decode_map_row_of_covers {w : OpCode} {i : Instr} (h : (opcodeRow i).covers w = true) :
    (decode w).map opcodeRow = .ok (opcodeRow i) := by
  have h : w &&& (opcodeRow i).mask = (opcodeRow i).pattern := of_decide_eq_true h
  cases i with
  | scd =>
    simp only [opcodeRow] at h
    obtain ⟨hop, hp⟩ := OpCode.op_prefix12_of_and_FFF0 h
    rw [decode, decodeOp, decodeGroup0, hop, hp]; rfl
  | cls | ret | scr | scl | exit | low | high =>
    simp only [opcodeRow] at h
    rw [OpCode.eq_of_and_FFFF h]; rfl
  | jp | call | seImm | sneImm | ldImm | addImm | ldI | jpV0 | rnd | drw =>
    simp only [opcodeRow] at h
    rw [decode, decodeOp, OpCode.op_of_and_F000 h]; rfl
  | seReg | sneReg =>
    simp only [opcodeRow] at h
    obtain ⟨hop, hn⟩ := OpCode.op_n_of_and_F00F h
    rw [decode, decodeOp, hop, hn]; rfl
  | ldReg | orReg | andReg | xorReg | addReg | subReg | shr | subnReg | shl =>
    simp only [opcodeRow] at h
    obtain ⟨hop, hn⟩ := OpCode.op_n_of_and_F00F h
    rw [decode, decodeOp, decodeGroup8, hop, hn]; rfl
  | skp | sknp =>
    simp only [opcodeRow] at h
    obtain ⟨hop, hk⟩ := OpCode.op_kk_of_and_F0FF h
    rw [decode, decodeOp, decodeGroupE, hop, hk]; rfl
  | ldVxDt | ldVxK | ldDtVx | ldStVx | addI | ldF | ldB | ldMemVx | ldVxMem =>
    simp only [opcodeRow] at h
    obtain ⟨hop, hk⟩ := OpCode.op_kk_of_and_F0FF h
    rw [decode, decodeOp, decodeGroupF, hop, hk]; rfl

open Laws.EncodingInRow in
/-- The lemmas of `Laws.EncodingInRow`, one per constructor, put together. -/
theorem encode_inRow (i : Instr) : Statement i :=
  Instr.rec (motive := Statement) scd cls ret scr scl exit low high jp call seImm sneImm seReg ldImm addImm ldReg orReg andReg
    xorReg addReg subReg shr subnReg shl sneReg ldI jpV0 rnd drw skp sknp ldVxDt ldVxK ldDtVx ldStVx addI ldF ldB ldMemVx
    ldVxMem i

/-- The pattern of each row of the map decodes to an instruction of that row. -/
theorem decode_pattern : ∀ row ∈ opcodeTable, (decode row.pattern).map opcodeRow = .ok row := by decide

theorem exists_decode_of_map_row {w : OpCode} {row : OpcodeRow} (h : (decode w).map opcodeRow = .ok row) :
    ∃ i, decode w = .ok i ∧ opcodeRow i = row := by
  cases hd : decode w with
  | ok i => exact ⟨i, rfl, by simpa [hd, Except.map] using h⟩
  | error e => simp [hd, Except.map] at h

/-- A row of the map is the row of what its pattern decodes to. -/
theorem exists_decode_of_row_covers {w : OpCode} {row : OpcodeRow} (hrow : row ∈ opcodeTable) (hw : row.covers w = true) :
    ∃ i, decode w = .ok i ∧ opcodeRow i = row := by
  obtain ⟨j, -, rfl⟩ := exists_decode_of_map_row (decode_pattern row hrow)
  exact exists_decode_of_map_row (decode_map_row_of_covers hw)

/-- The row of a shift has the mask that ignores `y`, so it covers the word as it covers the encoding. -/
theorem covers_of_decode {w : OpCode} {i : Instr} (h : decode w = .ok i) : (opcodeRow i).covers w = true := by
  have hcov : (opcodeRow i).covers (encode i) = true := (encode_inRow i).1
  by_cases hw : w.IsShift
  · obtain ⟨henc, hmask⟩ := encode_of_decode_isShift h hw
    have hkeep : (w &&& 0xFF0F) &&& 0xF00F = w &&& 0xF00F := BitVec.and_assoc ..
    rwa [henc, OpcodeRow.covers, hmask, hkeep, ← hmask] at hcov
  · rwa [encode_of_decode h hw] at hcov

theorem decode_eq_error {w : OpCode} (h : ∀ i, decode w ≠ .ok i) : decode w = .error (.unsupportedOpcode w) := by
  cases hd : decodeOp w with
  | some i => exact absurd ((decode_ok_iff w i).2 hd) (h i)
  | none => simp only [decode, hd]

/-- Settles O56: a legal word is covered by its instruction's row, a covered word decodes to the row's instruction, and
hence an uncovered word is no legal one. -/
theorem decoderAgreesWithOpcodeMap : Obligations.DecoderAgreesWithOpcodeMap := by
  refine fun w => ⟨fun i h => ⟨(encode_inRow i).2, covers_of_decode h⟩, fun row => exists_decode_of_row_covers,
    fun hnone => decode_eq_error fun i h => ?_⟩
  have huncovered := hnone _ (encode_inRow i).2
  rw [covers_of_decode h] at huncovered
  cases huncovered

/-! ## The literals of the source, and the fields of a word (R106, R92) -/

/-- Settles O57: the encodings by evaluation, the decodings by the round trip. -/
theorem sourceLiterals : Obligations.SourceLiterals :=
  ⟨rfl, rfl, rfl, rfl, rfl, rfl, rfl, rfl, decode_encode (.scd 0xA), decode_encode .scr, decode_encode .cls, decode_encode .ret,
    decode_encode (.jp 0xABC), decode_encode (.call 0xABC), decode_encode (.drw 0xA 0xB 0xC), decode_encode (.ldVxMem 0xA)⟩

theorem OpCode.toNat_op_eq_div (w : OpCode) : w.op.toNat = w.toNat / 4096 := by
  have hlt := w.isLt
  rw [w.toNat_op]; omega

/-- Settles O58: the accessors as numbers, and each insertion read in its own layout. -/
theorem fieldAccessorsAndInsertions : Obligations.FieldAccessorsAndInsertions := by
  refine fun w f b a => ⟨⟨w.toNat_op_eq_div, w.toNat_x, w.toNat_y, w.toNat_n, w.toNat_kk, w.toNat_nnn, w.toNat_prefix12⟩,
    ?_, ?_, ?_, ?_, ?_, ?_, ?_⟩
  · exact ⟨OpCode.op_a .., OpCode.nnn_a ..⟩
  · exact ⟨OpCode.x_xs .., OpCode.op_xs .., OpCode.kk_xs ..⟩
  · exact ⟨OpCode.y_xys .., OpCode.op_xys .., OpCode.x_xys .., OpCode.n_xys ..⟩
  · exact ⟨OpCode.n_pn .., OpCode.prefix12_pn ..⟩
  · exact ⟨OpCode.kk_xs .., OpCode.op_xs .., OpCode.x_xs ..⟩
  · exact ⟨OpCode.nnn_a .., OpCode.op_a ..⟩
  · exact ⟨OpCode.prefix12_pn .., OpCode.n_pn ..⟩

end Sys2Proof

/-! Control flow (40_control_flow.md): the jumps, CALL and RET at both ends of the stack, nested calls and their returns; and
the table of the errors that the execute phase raises (60_exceptions.md R213). -/

namespace Sys2Proof.Machine

/-! ## CALL and RET on either side of the stack's limits -/

theorem exec_call_of_lt {s : State} (nnn : Addr) (h : s.sp.val < 16) :
    exec (.call nnn) s =
      .next { s with pc := nnn, stack := s.stack.set s.sp.val s.pc h, sp := ⟨s.sp.val + 1, by omega⟩ } := by
  rw [exec_call_eq, dif_pos h]

theorem exec_call_full {s : State} (nnn : Addr) (h : s.sp.val = 16) :
    exec (.call nnn) s = .next (s.raise .stackOverflow) := by
  rw [exec_call_eq, dif_neg (by omega)]

theorem exec_ret_of_pos {s : State} (h : 0 < s.sp.val) :
    exec .ret s = .next { s with pc := s.stack[s.sp.val - 1]'(by omega), sp := ⟨s.sp.val - 1, by omega⟩ } := by
  rw [exec_ret_eq, if_neg (by omega)]

theorem exec_ret_empty {s : State} (h : s.sp.val = 0) : exec .ret s = .next (s.raise .stackUnderflow) := by
  rw [exec_ret_eq, if_pos h]

/-! ## Nested calls (R124) -/

/-- Nothing but PC and the dead stack entries differs: the entries below SP, and SP itself, are as before. -/
def SameLiveEntries (s u : State) : Prop :=
  ∃ pc stack, u = { s with pc := pc, stack := stack } ∧ ∀ k (_ : k < 16), k < s.sp.val → stack[k] = s.stack[k]

theorem SameLiveEntries.refl (s : State) : SameLiveEntries s s := ⟨s.pc, s.stack, rfl, fun _ _ _ => rfl⟩

/-- A return balances a call, whatever ran between them with the live entries kept: it continues after the call. -/
theorem exec_ret_balances_call {s t u : State} {a nnn : Addr} (h : s.sp.val < 16)
    (ht : exec (.call nnn) { s with pc := a } = .next t) (hu : SameLiveEntries t u) :
    ∃ v, exec .ret u = .next v ∧ v.pc = a ∧ SameLiveEntries s v := by
  cases (exec_call_of_lt (s := { s with pc := a }) nnn h).symm.trans ht
  obtain ⟨pc, stack, rfl, hlive⟩ := hu
  have htop : stack[s.sp.val] = a := (hlive s.sp.val h (Nat.lt_succ_self _)).trans (Vector.getElem_set_self _)
  refine ⟨_, exec_ret_of_pos (Nat.succ_pos _), htop, _, stack, rfl, fun k hk hks => ?_⟩
  exact (hlive k hk (Nat.lt_succ_of_lt hks)).trans (Vector.getElem_set_ne h hk (Nat.ne_of_gt hks))

theorem runNestedCalls_cons {s t : State} {c : Addr × Addr} (cs : List (Addr × Addr))
    (h : exec (.call c.2) { s with pc := c.1 } = .next t) : runNestedCalls (c :: cs) s = runNestedCalls cs t := by
  simp only [runNestedCalls, h]

theorem runReturns_succ {s t : State} (n : Nat) (h : exec .ret s = .next t) : runReturns (n + 1) s = runReturns n t := by
  simp only [runReturns, h]

/-- The last of `n + 1` returns runs where the first `n` ended. -/
theorem runReturns_succ_last {n : Nat} {s t u : State} (ht : runReturns n s = .next t) (hu : exec .ret t = .next u) :
    runReturns (n + 1) s = .next u := by
  induction n generalizing s with
  | zero =>
    cases ht
    exact runReturns_succ 0 hu
  | succ n ih =>
    obtain ⟨w, hw⟩ := exec_answers_next .ret s
    rw [runReturns_succ _ hw] at ht ⊢
    exact ih ht

/-- Calls that fit on the stack, then as many returns: the inner calls balance, and the last return balances the first call. -/
theorem nestedCalls_balance (cs : List (Addr × Addr)) (s : State) (h : s.sp.val + cs.length ≤ 16) :
    ∃ t u, runNestedCalls cs s = .next t ∧ t.sp.val = s.sp.val + cs.length ∧ runReturns cs.length t = .next u ∧
      (∀ c ∈ cs.head?, u.pc = c.1) ∧ SameLiveEntries s u := by
  induction cs generalizing s with
  | nil => exact ⟨s, s, rfl, rfl, rfl, by simp, .refl s⟩
  | cons c cs ih =>
    rw [List.length_cons] at h
    have hlt : s.sp.val < 16 := by omega
    obtain ⟨called, hcall, hdepth⟩ : ∃ called,
        exec (.call c.2) { s with pc := c.1 } = .next called ∧ called.sp.val = s.sp.val + 1 :=
      ⟨_, exec_call_of_lt (s := { s with pc := c.1 }) c.2 hlt, rfl⟩
    obtain ⟨t, u, hcalls, hsp, hrets, -, hlive⟩ := ih called (by omega)
    obtain ⟨v, hret, hpc, hbal⟩ := exec_ret_balances_call hlt hcall hlive
    refine ⟨t, v, (runNestedCalls_cons cs hcall).trans hcalls, ?_, runReturns_succ_last hrets hret, by simp [hpc], hbal⟩
    rw [hsp, hdepth, List.length_cons]
    omega

/-- Settles O5: the law of R124 for a list of calls that is not empty. -/
theorem nestedCallsAndReturnsBalance : Obligations.NestedCallsAndReturnsBalance := by
  intro s first inner h
  obtain ⟨t, _, hcalls, hsp, hrets, hpc, pc, stack, rfl, hlive⟩ := nestedCalls_balance (first :: inner) s h
  exact ⟨t, _, hcalls, hsp, hrets, hpc first rfl, rfl, hlive, rfl, .of_eq rfl rfl⟩

/-! ## The error table (60_exceptions.md R213) -/

/-- The execute phase takes the error of the table, or reports nothing new and does not halt with an error. -/
theorem Executed.error_cases {s t : State} {i : Instr} (h : Executed s i t) :
    (∃ e, executeError s i = some e ∧ t.out.report = some e ∧ t.es = .halted (.error e)) ∨
    executeError s i = none ∧ t.out.report = s.out.report ∧ (t.es = s.es ∨ ∀ e, t.es ≠ .halted (.error e)) := by
  cases h with
  | raises n he => exact .inl ⟨_, he, rfl, rfl⟩
  | moves _ _ he | writesV _ _ he | requests _ _ he => exact .inr ⟨he, rfl, .inl rfl⟩
  | drw x y n he => exact .inr ⟨he, by simp [State.drawPixels], .inl (by simp [State.drawPixels])⟩
  | call nnn h => exact .inr ⟨if_neg (by omega), rfl, .inl rfl⟩
  | ret h => exact .inr ⟨if_neg h, rfl, .inl rfl⟩
  | ldB x h | ldMemVx x h => exact .inr ⟨if_neg (by omega), rfl, .inl rfl⟩
  | ldVxK | exit => exact .inr ⟨rfl, rfl, .inr fun e he => by cases he⟩
  | ldI | addI | ldF | ldDtVx | ldStVx => exact .inr ⟨rfl, rfl, .inl rfl⟩

/-- Settles O36, for both what the step reports and what halts the engine. -/
theorem errorTableIsExact : Obligations.ErrorTableIsExact := by
  intro s i hready hreport
  obtain ⟨t, ht, hx⟩ := exec_executed i s
  obtain ⟨e, he, hr, hes⟩ | ⟨he, hr, hes⟩ := hx.error_cases
  · exact ⟨t, ht, hr.trans he.symm, fun e' => by rw [he, hes]; simp⟩
  · have hnot : ∀ e, t.es ≠ .halted (.error e) := by
      obtain hsame | hnot := hes
      · simp [hsame, hready]
      · exact hnot
    exact ⟨t, ht, by rw [hr, hreport, he], fun e => by simp [he, hnot e]⟩

/-! ## The four instructions (R120 to R123) -/

/-- Settles O1: the word is the encoding of JP, and the execute phase is one write of PC. -/
theorem jumpSetsOnlyPc : Obligations.JumpSetsOnlyPc :=
  fun s nnn => ⟨decode_encode (.jp nnn), s.setPc nnn, rfl, rfl, s.setPc_pcOnly nnn⟩

/-- Settles O2: PC is as the table of `pcAfter` says. -/
theorem indexedJumpAddsV0 : Obligations.IndexedJumpAddsV0 := by
  intro s nnn
  have hx : exec (.jpV0 nnn) s = .next (s.setPc (nnn + zext12 (s.getV 0))) := rfl
  exact ⟨decode_encode (.jpV0 nnn), _, hx, (executed_of_exec hx).pc_eq rfl, s.setPc_pcOnly _⟩

/-- Settles O3, on either side of the stack's limit. -/
theorem callPushesOrOverflows : Obligations.CallPushesOrOverflows := by
  refine fun s nnn => ⟨decode_encode (.call nnn), fun h => ?_, fun h => ?_⟩
  · refine ⟨_, exec_call_of_lt nnn h, rfl, rfl, fun k hk => ?_, rfl, .of_eq rfl rfl⟩
    exact (Vector.getElem_set h hk).trans (if_congr eq_comm rfl rfl)
  · exact ⟨_, exec_call_full nnn h, s.raise_errorTaken _⟩

/-- Settles O4, with and without an entry to pop. -/
theorem returnPopsOrUnderflows : Obligations.ReturnPopsOrUnderflows :=
  ⟨decode_encode .ret, fun s => ⟨fun h => ⟨_, exec_ret_of_pos h, rfl, rfl, rfl, .of_eq rfl rfl⟩,
    fun h => ⟨_, exec_ret_empty h, s.raise_errorTaken _⟩⟩⟩

end Sys2Proof.Machine

/-! Skips (41_skips.md): the keypad query, what the six skips do in the execute phase, and the delta of a whole step. -/

namespace Sys2Proof.Machine

/-! ## The keypad query (R46) -/

theorem State.askKey_ports (s : State) (k : Nibble) :
    (∀ sample rest, s.ports.keypad = sample :: rest →
      (s.askKey k).1 = sample.getLsbD k.toNat ∧ (s.askKey k).2.ports = { s.ports with keypad := rest }) ∧
    (s.ports.keypad = [] → (s.askKey k).2.ports = { s.ports with draws := (s.askKey k).2.ports.draws }) := by
  constructor
  · intro sample rest h
    simp [State.askKey, h]
  · intro h
    simp [State.askKey, h, State.countDraw]

theorem State.askKey_eq_ports (s : State) (k : Nibble) :
    (s.askKey k).2 = { s with ports := (s.askKey k).2.ports } := by
  obtain ⟨p, h⟩ := s.askKey_frame k
  rw [h]

/-- The answer and the ports left depend on the ports alone. -/
theorem State.askKey_congr {s t : State} (h : t.ports = s.ports) (k : Nibble) :
    (t.askKey k).1 = (s.askKey k).1 ∧ (t.askKey k).2.ports = (s.askKey k).2.ports := by
  unfold State.askKey State.countDraw
  rw [h]
  split <;> exact ⟨rfl, rfl⟩

theorem lowNibble_toNat (b : Byte) : (lowNibble b).toNat = b.toNat % 16 := by
  simp [lowNibble, BitVec.extractLsb'_toNat]

/-! ## What a skip does in the execute phase (R129) -/

/-- The ports after the skip `i`: those that SKP's and SKNP's one query leaves (R134, R135), else as they were. -/
def skipPorts (s : State) : Instr → Ports
  | .skp x | .sknp x => (s.askKey (lowNibble (s.getV x))).2.ports
  | _ => s.ports

theorem skipPorts_of_not_asksPorts {i : Instr} (s : State) (h : asksPorts i = false) : skipPorts s i = s.ports := by
  cases i with
  | skp x | sknp x => cases h
  | _ => rfl

/-- Executing a skip is the common skip step on its condition, after its query of the ports. -/
theorem exec_of_skipCondition {s : State} {i : Instr} {cond : Bool} (h : skipCondition s i = some cond) :
    exec i s = .next (State.skipIf { s with ports := skipPorts s i } cond) := by
  cases i with
  | seImm x kk | sneImm x kk | seReg x y | sneReg x y =>
    cases h
    simp [exec, execSeImm, execSneImm, execSeReg, execSneReg, skipPorts, bne, beq_eq_decide]
  | skp x | sknp x =>
    cases h
    exact congrArg (fun u => Host.Outcome.next (State.skipIf u _)) (s.askKey_eq_ports _)
  | _ => cases h

/-- A skip's condition and the ports it leaves depend on the registers and the ports alone. -/
theorem skipCondition_congr {s t : State} (hv : t.v = s.v) (hp : t.ports = s.ports) (i : Instr) :
    skipCondition t i = skipCondition s i ∧ skipPorts t i = skipPorts s i := by
  have hget := State.getV_of_v_eq hv
  cases i with
  | skp x | sknp x =>
    obtain ⟨hdown, hports⟩ := State.askKey_congr hp (lowNibble (s.getV x))
    simp only [skipCondition, skipPorts, hget, hdown, hports, and_self]
  | _ => simp only [skipCondition, skipPorts, hget, hp, and_self]

/-! ## The whole step (R211) -/

theorem step_of_decode {s : State} {w : OpCode} {i : Instr} (hes : s.es = .ready) (hf : s.fetch = .ok w)
    (hd : decode w = .ok i) : step s = exec i s.beginStep.advance := by
  have hf' : s.beginStep.fetch = .ok w := hf
  simp only [step, hes, readyStep, hf', hd]

/-- The advance after the fetch and the skip's own: 4 from the fetch address, or 2 (R129). -/
theorem State.skipIf_advance_pc_toNat (s : State) (p : Ports) (cond : Bool) :
    (State.skipIf { s.advance with ports := p } cond).pc.toNat = (s.pc.toNat + if cond then 4 else 2) % 4096 := by
  have hadv : s.advance.pc.toNat = (s.pc.toNat + 2) % 4096 := by simp [BitVec.toNat_add]
  rw [State.skipIf_pc_toNat]
  cases cond
  · exact hadv
  · simp only [hadv, if_true]
    omega

/-- Settles O8: the step runs the skip after the advance, and neither the advance nor the cleared answer touches what
the condition reads. -/
theorem skipDeltaFromFetch : Obligations.SkipDeltaFromFetch := by
  intro s w i cond hes hf hd hcond
  obtain ⟨hsame, hports⟩ := skipCondition_congr (s := s) (t := s.beginStep.advance) rfl rfl i
  have hstep := (step_of_decode hes hf hd).trans (exec_of_skipCondition (hsame.trans hcond))
  rw [hports] at hstep
  obtain ⟨heq, hmem⟩ := State.skipIf_pcOnly { s.beginStep.advance with ports := skipPorts s i } cond
  refine ⟨_, hstep, s.beginStep.skipIf_advance_pc_toNat _ cond, ?_, hmem, ?_⟩ <;> rw [State.skipIf_ports]
  · exact heq
  · refine ⟨skipPorts_of_not_asksPorts s, ?_⟩
    rintro x (rfl | rfl) <;> rfl

/-! ## The execute phase, instruction by instruction (R130 to R135) -/

/-- A skip that asks no port moves PC as the table of `pcAfter` says, and changes nothing else. -/
theorem exec_registerSkip {i : Instr} {cond : Bool} (s : State) (h : skipCondition s i = some cond)
    (hi : asksPorts i = false) (he : executeError s i = none) :
    ∃ t, exec i s = .next t ∧ PcOnly s t ∧ t.pc.toNat = pcAfter s i := by
  have hx := exec_of_skipCondition h
  rw [skipPorts_of_not_asksPorts s hi] at hx
  exact ⟨_, hx, s.skipIf_pcOnly cond, (executed_of_exec hx).pc_eq he⟩

/-- Settles O6: each word is the encoding of its skip, and PC is as the table says. -/
theorem registerSkips : Obligations.RegisterSkips := fun s x y kk =>
  ⟨decode_encode (.seImm x kk), decode_encode (.sneImm x kk), decode_encode (.seReg x y), decode_encode (.sneReg x y),
    exec_registerSkip s rfl rfl rfl, exec_registerSkip s rfl rfl rfl, exec_registerSkip s rfl rfl rfl,
    exec_registerSkip s rfl rfl rfl⟩

/-- Settles O7: both skips make the one query, and `askKey_ports` says what it answers and leaves. -/
theorem keySkips : Obligations.KeySkips := by
  intro s x
  have hskp := exec_of_skipCondition (s := s) (i := .skp x) rfl
  have hsknp := exec_of_skipCondition (s := s) (i := .sknp x) rfl
  obtain ⟨ht, htmem⟩ :=
    State.skipIf_pcOnly { s with ports := skipPorts s (.skp x) } (s.askKey (lowNibble (s.getV x))).1
  obtain ⟨hu, humem⟩ :=
    State.skipIf_pcOnly { s with ports := skipPorts s (.sknp x) } (!(s.askKey (lowNibble (s.getV x))).1)
  obtain ⟨hlaid, hfree⟩ := s.askKey_ports (lowNibble (s.getV x))
  rw [lowNibble_toNat] at hlaid
  exact ⟨decode_encode (.skp x), decode_encode (.sknp x), _, _, _, _, hskp, hsknp, ht, hu, htmem, humem,
    (executed_of_exec hskp).pc_eq rfl, (executed_of_exec hsknp).pc_eq rfl, hlaid, hfree⟩

end Sys2Proof.Machine

/-! The arithmetic and logic between registers (42_alu.md): results and flags as numbers, what the two shapes of register
writes leave, and the nine instructions. -/

namespace Sys2Proof.Machine

/-! ## Results and flags as numbers (R144 to R148) -/

section
variable (a b : Byte)

theorem toNat_byte_sub : (a - b).toNat = (a.toNat + 256 - b.toNat) % 256 := by
  have hb := b.isLt
  rw [BitVec.toNat_sub]; omega

theorem toNat_byte_shiftRight_one : (a >>> 1).toNat = a.toNat / 2 := by
  rw [BitVec.toNat_ushiftRight, Nat.shiftRight_eq_div_pow, pow_one]

theorem toNat_byte_shiftLeft_one : (a <<< 1).toNat = 2 * a.toNat % 256 := by
  rw [BitVec.toNat_shiftLeft, Nat.shiftLeft_eq, pow_one, Nat.mul_comm]

theorem toNat_flagByte_addCarry : (flagByte (addCarry a b)).toNat = if a.toNat + b.toNat > 255 then 1 else 0 := by
  simp [addCarry]

theorem toNat_flagByte_subNoBorrow : (flagByte (subNoBorrow a b)).toNat = if a.toNat ≥ b.toNat then 1 else 0 := by
  simp [subNoBorrow]

/-- A bit of a byte, laid down as a flag, is that binary digit of the byte. -/
theorem toNat_flagByte_getLsbD (k : Nat) : (flagByte (a.getLsbD k)).toNat = a.toNat / 2 ^ k % 2 := by
  rw [toNat_flagByte, ← Bool.cond_eq_ite]
  exact Nat.toNat_testBit ..

theorem toNat_flagByte_shiftedOutRight : (flagByte (shiftedOutRight a)).toNat = a.toNat % 2 := by
  rw [shiftedOutRight, toNat_flagByte_getLsbD, pow_zero, Nat.div_one]

/-- Bit 7 is the top bit, so nothing of the quotient is cut off. -/
theorem toNat_flagByte_shiftedOutLeft : (flagByte (shiftedOutLeft a)).toNat = a.toNat / 128 := by
  have ha := a.isLt
  rw [shiftedOutLeft, toNat_flagByte_getLsbD]
  omega

end

/-! ## The shift words (R103) -/

theorem decode_shr_word (x y : Nibble) : decode (0x8#4 ++ x ++ y ++ 0x6#4) = .ok (.shr x) := by
  simp [decode_ok_iff, decodeOp, decodeGroup8]

theorem decode_shl_word (x y : Nibble) : decode (0x8#4 ++ x ++ y ++ 0xE#4) = .ok (.shl x) := by
  simp [decode_ok_iff, decodeOp, decodeGroup8]

/-! ## Instructions that write a register, without and with the flag (R23, R24) -/

section
variable {s : State} {i : Instr} {x : Nibble} {b : Byte}

theorem exec_writesRegister (h : exec i s = .next (s.setV x b)) :
    ∃ t, exec i s = .next t ∧ t.getV x = b ∧ SameRegistersBut [x] s t ∧ RegistersOnly s t :=
  ⟨_, h, (s.getV_setV x x b).trans (if_pos rfl), s.setV_sameRegistersBut x b, s.setV_registersOnly x b⟩

/-- The flag is written last, so the result stands unless it was put in VF. -/
theorem exec_writesRegisterAndFlag {f : Bool} {result flag : Nat} (h : exec i s = .next (s.setVThenFlag x b f))
    (hb : b.toNat = result) (hf : (flagByte f).toNat = flag) :
    ∃ t, exec i s = .next t ∧ (x ≠ 15 → (t.getV x).toNat = result) ∧ (t.getV 15).toNat = flag ∧
      SameRegistersBut [x, 15] s t ∧ RegistersOnly s t := by
  refine ⟨_, h, fun hx => ?_, ?_, s.setVThenFlag_sameRegistersBut x b f, s.setVThenFlag_registersOnly x b f⟩
  · rw [State.getV_setVThenFlag, if_neg hx, if_pos rfl, hb]
  · rw [State.getV_setVThenFlag, if_pos rfl, hf]

end

/-! ## The instructions (R140 to R148) -/

/-- Settles O9: each word is the encoding of its instruction, and the execute phase is one register write. -/
theorem copyAndLogic : Obligations.CopyAndLogic := fun _ x y =>
  ⟨decode_encode (.ldReg x y), decode_encode (.orReg x y), decode_encode (.andReg x y), decode_encode (.xorReg x y),
    exec_writesRegister rfl, exec_writesRegister rfl, exec_writesRegister rfl, exec_writesRegister rfl⟩

/-- Settles O10: the sum, then the carry over it. -/
theorem addSetsSumAndCarry : Obligations.AddSetsSumAndCarry := fun _ x y =>
  ⟨decode_encode (.addReg x y), exec_writesRegisterAndFlag rfl (BitVec.toNat_add ..) (toNat_flagByte_addCarry ..)⟩

/-- Settles O11: one difference and one flag, SUBN with the operands the other way round. -/
theorem subtractionsSetDifferenceAndNoBorrow : Obligations.SubtractionsSetDifferenceAndNoBorrow := fun _ x y =>
  ⟨decode_encode (.subReg x y), decode_encode (.subnReg x y),
    exec_writesRegisterAndFlag rfl (toNat_byte_sub ..) (toNat_flagByte_subNoBorrow ..),
    exec_writesRegisterAndFlag rfl (toNat_byte_sub ..) (toNat_flagByte_subNoBorrow ..)⟩

/-- Settles O12: the decoder ignores `y` (D4), and the flag is the binary digit shifted out. -/
theorem shiftsInPlace : Obligations.ShiftsInPlace := fun _ x y =>
  ⟨decode_shr_word x y, decode_shl_word x y,
    exec_writesRegisterAndFlag rfl (toNat_byte_shiftRight_one _) (toNat_flagByte_shiftedOutRight _),
    exec_writesRegisterAndFlag rfl (toNat_byte_shiftLeft_one _) (toNat_flagByte_shiftedOutLeft _)⟩

end Sys2Proof.Machine

/-! Immediates (43_immediate.md): each word is the encoding of its instruction, and the execute phase is one register write. -/

namespace Sys2Proof.Machine

/-- Settles O13: VF is a destination like any other, so `x = 15` needs no case of its own. -/
theorem loadImmediate : Obligations.LoadImmediate := fun _ x kk =>
  ⟨decode_encode (.ldImm x kk), exec_writesRegister rfl⟩

/-- Settles O14: byte addition is addition mod 256, and no flag is written after it (D7), also for `x = 15`. -/
theorem addImmediate : Obligations.AddImmediate := by
  intro s x kk
  obtain ⟨t, hexec, hsum, hregs, hframe⟩ :
      ∃ t, exec (.addImm x kk) s = .next t ∧ t.getV x = s.getV x + kk ∧ SameRegistersBut [x] s t ∧ RegistersOnly s t :=
    exec_writesRegister rfl
  exact ⟨decode_encode (.addImm x kk), t, hexec, hsum ▸ BitVec.toNat_add .., hregs, hframe⟩

end Sys2Proof.Machine

/-! The address register and memory (44_address_memory.md): writes of `I`, and the transfers at `I`, each of which happens whole
or raises MemoryError(0x1000). -/

namespace Sys2Proof.Machine

/-! ## Writes of the address register (R160 to R162) -/

theorem State.setI_addressOnly (s : State) (a : Addr) :
    s.setI a = { s with i := (s.setI a).i } ∧ SameMemory s (s.setI a) :=
  ⟨rfl, .of_eq rfl rfl⟩

/-- The sum is reduced mod 4096 (D7). -/
theorem toNat_add_zext12 (a : Addr) (b : Byte) : (a + zext12 b).toNat = (a.toNat + b.toNat) % 4096 := by
  simp [zext12, BitVec.toNat_add]

/-- A font that fits below 0x200 (R6) has every glyph at an address that 12 bits hold, so nothing is reduced (D15). -/
theorem toNat_fontAddress {p : Params} (hp : p.wellFormed = true) (d : Nibble) :
    (fontAddress p d).toNat = p.fontBase.toNat + 5 * d.toNat := by
  have hd := d.isLt
  have hfit : p.fontBase.toNat + 80 ≤ 0x200 := of_decide_eq_true (Bool.and_eq_true_iff.1 hp).1
  have hwidth : (d.setWidth 12).toNat = d.toNat := BitVec.toNat_setWidth_of_le (by decide)
  have hfive : (5 : Addr).toNat = 5 := rfl
  rw [fontAddress, BitVec.toNat_add, BitVec.toNat_mul, hwidth, hfive]
  omega

/-! ## Transfers at `I` (R163 to R165) -/

/-- A transfer that reaches past the end of memory takes its error and nothing else. -/
theorem exec_errorTaken_of_ite {s t : State} {i : Instr} {e : EngineError} {past : Prop} [Decidable past]
    (hx : exec i s = .next (if past then s.raise e else t)) (h : past) :
    ∃ u, exec i s = .next u ∧ ErrorTaken e s u :=
  ⟨_, hx.trans (congrArg _ (if_pos h)), s.raise_errorTaken e⟩

theorem exec_ldVxMem_of_fits {s : State} {x : Nibble} (h : s.i.toNat + x.toNat ≤ 4095) :
    exec (.ldVxMem x) s = .next (s.setFirstV (s.bytesAt s.i.toNat (x.toNat + 1))) := by
  rw [exec_ldVxMem_eq, if_neg (by omega)]

/-- What LD Vx,[I] leaves in each register. -/
theorem State.getV_setFirstV_bytesAt (s : State) (a : Nat) (x k : Nibble) :
    (s.setFirstV (s.bytesAt a (x.toNat + 1))).getV k =
      if k.toNat ≤ x.toNat then s.byteAt (a + k.toNat) else s.getV k := by
  have hlen := s.length_bytesAt a (x.toNat + 1)
  rw [State.getV_setFirstV]
  split
  · rw [List.getElem?_eq_getElem (by omega), Option.getD_some, State.getElem_bytesAt]
  · rw [List.getElem?_eq_none (by omega), Option.getD_none]

/-! ## The obligations -/

/-- Settles O18: the store leaves each address as `byteAt_storeBytes_firstV` says, and `I` as it is (D8). -/
theorem bulkStore : Obligations.BulkStore := by
  refine fun s x => ⟨decode_encode (.ldMemVx x), fun hfit => ?_, exec_errorTaken_of_ite (exec_ldMemVx_eq s x)⟩
  have hframe := s.storeBytes_memoryOnly s.i.toNat (s.firstV x)
  rw [s.length_firstV] at hframe
  exact ⟨_, exec_ldMemVx_of_fits hfit, fun k hk => (s.byteAt_storeBytes_firstV _ x _).1 k hk rfl, hframe⟩

/-- Settles O19: each register is loaded or kept, and `I` stays as it is (D8). -/
theorem bulkLoad : Obligations.BulkLoad :=
  fun s x => ⟨decode_encode (.ldVxMem x),
    fun hfit => ⟨_, exec_ldVxMem_of_fits hfit, s.getV_setFirstV_bytesAt _ x, rfl, .of_eq rfl rfl⟩,
    exec_errorTaken_of_ite (exec_ldVxMem_eq s x)⟩

/-- Settles O15: the word is the encoding of LD I, and the execute phase is one write of `I`. -/
theorem loadAddressRegister : Obligations.LoadAddressRegister :=
  fun s nnn => ⟨decode_encode (.ldI nnn), s.setI nnn, rfl, rfl, s.setI_addressOnly nnn⟩

/-- Settles O16: both write `I` only, ADD I reduced mod 4096 and LD F with no reduction to make. -/
theorem addressRegisterArithmetic : Obligations.AddressRegisterArithmetic := by
  intro s x
  refine ⟨decode_encode (.addI x), decode_encode (.ldF x), ?_, ?_⟩
  · exact ⟨_, rfl, toNat_add_zext12 s.i (s.getV x), s.setI_addressOnly _⟩
  · obtain ⟨hI, hmem⟩ := s.setI_addressOnly (fontAddress s.params (lowNibble (s.getV x)))
    refine ⟨_, rfl, hI, hmem, fun hp => (toNat_fontAddress hp _).trans ?_⟩
    rw [lowNibble_toNat]

/-- Settles O17: the store leaves the three bytes as `byteAt_storeBytes_bcdDigits` says. -/
theorem bcdStore : Obligations.BcdStore := by
  refine fun s x => ⟨decode_encode (.ldB x), fun hfit => ?_, exec_errorTaken_of_ite (exec_ldB_eq s x)⟩
  have hbyte := s.byteAt_storeBytes_bcdDigits s.i.toNat (s.getV x)
  obtain ⟨hhundreds, -⟩ := hbyte s.i.toNat
  obtain ⟨-, htens, -⟩ := hbyte (s.i.toNat + 1)
  obtain ⟨-, -, hones, -⟩ := hbyte (s.i.toNat + 2)
  exact ⟨_, exec_ldB_of_fits hfit, hhundreds rfl, htens rfl, hones rfl, s.storeBytes_memoryOnly _ _⟩

end Sys2Proof.Machine

/-! Timers and random (45_timers_random.md): the moves between a register and a timer, and RND's one query of the random source,
whose byte is masked and written. -/

namespace Sys2Proof.Machine

/-! ## The timers (R170 to R172) -/

theorem State.setDt_timerOnly (s : State) (b : Byte) :
    s.setDt b = { s with dt := (s.setDt b).dt } ∧ SameMemory s (s.setDt b) :=
  ⟨rfl, .of_eq rfl rfl⟩

theorem State.setSt_timerOnly (s : State) (b : Byte) :
    s.setSt b = { s with st := (s.setSt b).st } ∧ SameMemory s (s.setSt b) :=
  ⟨rfl, .of_eq rfl rfl⟩

theorem State.soundOn_iff (s : State) : s.soundOn = true ↔ s.st.toNat > 0 := decide_eq_true_iff

/-- Settles O20: one move is a register write, the other two are writes of one timer, and sound follows ST. -/
theorem timerMoves : Obligations.TimerMoves := by
  intro s x
  obtain ⟨hst, hmem⟩ := s.setSt_timerOnly (s.getV x)
  exact ⟨decode_encode (.ldVxDt x), decode_encode (.ldDtVx x), decode_encode (.ldStVx x), exec_writesRegister rfl,
    ⟨_, rfl, rfl, s.setDt_timerOnly _⟩, ⟨_, rfl, rfl, hst, hmem, State.soundOn_iff _⟩⟩

/-! ## The random source (R173) -/

/-- The query answers a byte and changes the ports only: it uses up the byte laid down, or counts a free answer. -/
theorem State.askRandom_ports (s : State) :
    ∃ r p, s.askRandom = (r, { s with ports := p }) ∧
      (∀ b rest, s.ports.random = b :: rest → r = b ∧ p = { s.ports with random := rest }) ∧
      (s.ports.random = [] → p = { s.ports with draws := p.draws }) := by
  obtain ⟨r, rest, hlaid, hask⟩ | ⟨hfree, hask⟩ := s.askRandom_cases
  · refine ⟨r, _, hask, fun b rest' h => ?_, fun h => ?_⟩
    · obtain ⟨rfl, rfl⟩ := List.cons.inj (hlaid.symm.trans h)
      exact ⟨rfl, rfl⟩
    · cases hlaid.symm.trans h
  · refine ⟨_, _, hask, fun b rest h => ?_, fun _ => rfl⟩
    cases hfree.symm.trans h

/-- RND writes the masked answer over the state its query left. -/
theorem exec_rnd_of_askRandom {s t : State} {r : Byte} (x : Nibble) (kk : Byte) (h : s.askRandom = (r, t)) :
    exec (.rnd x kk) s = .next (t.setV x (r &&& kk)) := by
  simp only [exec, execRnd, h]

/-- What is masked by `kk` has no bit outside `kk`. -/
theorem and_and_not_mask (r kk : Byte) : r &&& kk &&& ~~~kk = 0 := by
  rw [BitVec.and_assoc, BitVec.and_not_self]
  exact BitVec.and_zero

/-- Settles O21: the query changes the ports only, so its answer's masked write keeps all but one register and the ports;
the byte is as free as the answer (D24). -/
theorem randomIsMasked : Obligations.RandomIsMasked := by
  intro s x kk
  obtain ⟨r, p, hask, hlaid, hfree⟩ := s.askRandom_ports
  have hx : (State.setV { s with ports := p } x (r &&& kk)).getV x = r &&& kk :=
    (State.getV_setV _ x x _).trans (if_pos rfl)
  exact ⟨decode_encode (.rnd x kk), r, _, exec_rnd_of_askRandom x kk hask, hx, by rw [hx, and_and_not_mask],
    State.setV_sameRegistersBut { s with ports := p } x _, rfl, .of_eq rfl rfl, hlaid, hfree⟩

end Sys2Proof.Machine

/-! The sprite of DRW (46_display.md R180): the list of positions that the model toggles is read off memory bit by bit, has no
position twice, and holds exactly the positions the sprite covers. -/

namespace Sys2Proof.Machine

/-! ## Positions of the 1 bits of a grid -/

/-- The positions `pos r c` of a grid's 1 bits, row by row, left to right. -/
def bitPositions (rows cols : Nat) (bit : Nat → Nat → Bool) (pos : Nat → Nat → Nat × Nat) : List (Nat × Nat) :=
  (List.range rows).flatMap fun r => (List.range cols).filterMap fun c => if bit r c then some (pos r c) else none

section
variable {rows cols : Nat} {bit bit' : Nat → Nat → Bool} {pos : Nat → Nat → Nat × Nat} {p : Nat × Nat}

theorem bitPositions_congr (h : ∀ r < rows, ∀ c < cols, bit r c = bit' r c) :
    bitPositions rows cols bit pos = bitPositions rows cols bit' pos :=
  List.flatMap_congr fun r hr => List.filterMap_congr fun c hc => by
    rw [h r (List.mem_range.1 hr) c (List.mem_range.1 hc)]

theorem mem_bitPositions :
    p ∈ bitPositions rows cols bit pos ↔ ∃ r < rows, ∃ c < cols, bit r c = true ∧ p = pos r c := by
  simp only [bitPositions, List.mem_flatMap, List.mem_filterMap, List.mem_range, Option.ite_none_right_eq_some,
    Option.some.injEq, eq_comm (a := p)]

/-- Two cells of the grid never share a position. -/
def InjectiveOnGrid (rows cols : Nat) (pos : Nat → Nat → Nat × Nat) : Prop :=
  ∀ r < rows, ∀ r' < rows, ∀ c < cols, ∀ c' < cols, pos r c = pos r' c' → r = r' ∧ c = c'

theorem nodup_bitPositions (hpos : InjectiveOnGrid rows cols pos) : (bitPositions rows cols bit pos).Nodup := by
  refine List.nodup_flatMap.2 ⟨fun r hr => ?_, ?_⟩
  · refine List.pairwise_filterMap.2 (List.nodup_range.imp_of_mem ?_)
    intro c c' hc hc' hne p hp p' hp' heq
    simp only [Option.ite_none_right_eq_some, Option.some.injEq] at hp hp'
    obtain ⟨-, rfl⟩ := hp
    obtain ⟨-, rfl⟩ := hp'
    rw [List.mem_range] at hr hc hc'
    exact hne (hpos r hr r hr c hc c' hc' heq).2
  · refine List.nodup_range.imp_of_mem fun {r r'} hr hr' hne p hp hp' => ?_
    simp only [List.mem_filterMap, Option.ite_none_right_eq_some, Option.some.injEq, List.mem_range] at hr hr' hp hp'
    obtain ⟨c, hc, -, rfl⟩ := hp
    obtain ⟨c', hc', -, heq⟩ := hp'
    exact hne (hpos r' hr' r hr c' hc' c hc heq).1.symm

end

/-! ## The sprite's shape -/

theorem spriteShape_cols (n : Nibble) (res : Resolution) :
    (spriteShape n res).cols = 8 * (spriteShape n res).bytesPerRow := by
  unfold spriteShape
  split
  · rfl
  · cases res <;> rfl

/-- A sprite is no larger than the screen it is drawn on. -/
theorem spriteShape_le_screen (n : Nibble) (res : Resolution) :
    (spriteShape n res).rows ≤ screenHeight res ∧ (spriteShape n res).cols ≤ screenWidth res := by
  have hn := n.isLt
  unfold spriteShape
  split
  · cases res <;> simp only [screenHeight, screenWidth] <;> omega
  · cases res <;> decide

/-! ## The sprite's bits and positions -/

/-- A bit of a sprite whose bytes were loaded from `a` up is a bit of memory. -/
theorem spriteBit_bytesAt (s : State) (a : Nat) {sh : SpriteShape} {r c : Nat} (hr : r < sh.rows)
    (hc : c < 8 * sh.bytesPerRow) :
    spriteBit sh (s.bytesAt a sh.total) r c =
      (s.byteAt (a + r * sh.bytesPerRow + c / 8)).getLsbD (7 - c % 8) := by
  have hrow : (r + 1) * sh.bytesPerRow ≤ sh.rows * sh.bytesPerRow := Nat.mul_le_mul_right _ hr
  have hindex : r * sh.bytesPerRow + c / 8 < (s.bytesAt a sh.total).length := by
    rw [Nat.succ_mul] at hrow
    rw [State.length_bytesAt, SpriteShape.total]
    omega
  rw [spriteBit, List.getD_eq_getElem _ _ hindex, State.getElem_bytesAt, Nat.add_assoc]

/-- The positions DRW toggles, read off memory. -/
theorem spritePixels_bytesAt (s : State) (a : Nat) {sh : SpriteShape} (hsh : sh.cols = 8 * sh.bytesPerRow)
    (res : Resolution) (x y : Nat) :
    spritePixels sh res (s.bytesAt a sh.total) x y =
      bitPositions sh.rows sh.cols
        (fun r c => (s.byteAt (a + r * sh.bytesPerRow + c / 8)).getLsbD (7 - c % 8)) (spritePosition res x y) :=
  bitPositions_congr fun _ hr _ hc => spriteBit_bytesAt s a hr (hsh ▸ hc)

/-- Wrapping on both axes keeps the cells of a grid apart that is no larger than the screen. -/
theorem spritePosition_injectiveOnGrid {res : Resolution} {rows cols : Nat} (hrows : rows ≤ screenHeight res)
    (hcols : cols ≤ screenWidth res) (x y : Nat) : InjectiveOnGrid rows cols (spritePosition res x y) := by
  intro r hr r' hr' c hc c' hc' h
  obtain ⟨hx, hy⟩ := Prod.mk.inj h
  exact ⟨(Nat.ModEq.add_left_cancel' y hy).eq_of_lt_of_lt (hr.trans_le hrows) (hr'.trans_le hrows),
    (Nat.ModEq.add_left_cancel' x hx).eq_of_lt_of_lt (hc.trans_le hcols) (hc'.trans_le hcols)⟩

/-- The positions that DRW toggles in state `s`, the display reporting `res`. -/
def State.drawnPixels (s : State) (res : Resolution) (x y n : Nibble) : List (Nat × Nat) :=
  spritePixels (spriteShape n res) res (s.bytesAt s.i.toNat (spriteBytes n res)) (s.getV x).toNat (s.getV y).toNat

theorem State.drawnPixels_eq_bitPositions (s : State) (res : Resolution) (x y n : Nibble) :
    s.drawnPixels res x y n =
      bitPositions (spriteShape n res).rows (spriteShape n res).cols
        (fun r c => (s.byteAt (s.i.toNat + r * (spriteShape n res).bytesPerRow + c / 8)).getLsbD (7 - c % 8))
        (spritePosition res (s.getV x).toNat (s.getV y).toNat) := by
  rw [State.drawnPixels, ← spriteShape_total]
  exact spritePixels_bytesAt s _ (spriteShape_cols n res) res _ _

theorem State.nodup_drawnPixels (s : State) (res : Resolution) (x y n : Nibble) : (s.drawnPixels res x y n).Nodup := by
  obtain ⟨hrows, hcols⟩ := spriteShape_le_screen n res
  rw [State.drawnPixels_eq_bitPositions]
  exact nodup_bitPositions (spritePosition_injectiveOnGrid hrows hcols _ _)

theorem State.mem_drawnPixels (s : State) (res : Resolution) (x y n : Nibble) (px py : Nat) :
    (px, py) ∈ s.drawnPixels res x y n ↔ spriteCovers s (spriteShape n res) res x y px py := by
  rw [State.drawnPixels_eq_bitPositions, mem_bitPositions]
  simp only [spriteCovers, memorySpriteBit, Bool.and_eq_true, decide_eq_true_eq]
  constructor
  · rintro ⟨r, hr, c, hc, hbit, hp⟩
    exact ⟨r, c, ⟨⟨hr, hc⟩, hbit⟩, hp⟩
  · rintro ⟨r, c, ⟨⟨hr, hc⟩, hbit⟩, hp⟩
    exact ⟨r, hr, c, hc, hbit, hp⟩

theorem State.drawnPixels_in_buffer {s : State} {res : Resolution} {x y n : Nibble} :
    ∀ p ∈ s.drawnPixels res x y n, p.1 < 128 ∧ p.2 < 64 := by
  intro p hp
  have hon := spritePixels_onScreen hp
  simp only [onScreen, Bool.and_eq_true, decide_eq_true_eq] at hon
  exact ⟨hon.1.trans_le (screenWidth_le res), hon.2.trans_le (screenHeight_le res)⟩

/-- What a sprite covers depends on memory, `I` and the two coordinates only. -/
theorem spriteCovers_congr {s t : State} {x y : Nibble} (hi : t.i = s.i) (hmem : SameMemory s t)
    (hx : t.getV x = s.getV x) (hy : t.getV y = s.getV y) (sh : SpriteShape) (res : Resolution) (px py : Nat) :
    spriteCovers t sh res x y px py ↔ spriteCovers s sh res x y px py := by
  have hbyte : ∀ a, t.byteAt a = s.byteAt a := hmem
  simp only [spriteCovers, memorySpriteBit, hi, hx, hy, hbyte]

end Sys2Proof.Machine

/-! The display (46_display.md): the requests of part 1, DRW on any display, and on the reference display the XOR it draws with. -/

namespace Sys2Proof.Machine

/-! ## Requests (R181 to R188) -/

/-- A request appends its effect, hands its change to the display and leaves the core alone. -/
theorem exec_requestsDisplay {s : State} {i : Instr} {change : RefDisplay → RefDisplay} {e : Effect}
    (h : exec i s = .next (s.requestDisplay change e)) :
    ∃ t, exec i s = .next t ∧ t.out = { s.out with effects := s.out.effects ++ [e] } ∧
      t = { s with out := t.out, ports := { s.ports with display := s.ports.display.request change } } ∧
      SameMemory s t :=
  ⟨_, h, rfl, rfl, .of_eq rfl rfl⟩

/-- Settles O22: each of the five is one request. -/
theorem displayControlEmits : Obligations.DisplayControlEmits := by
  refine fun s => ⟨decode_encode .cls, decode_encode .low, decode_encode .high, decode_encode .scr, decode_encode .scl,
    fun i e port h => exec_requestsDisplay ?_⟩
  obtain ⟨rfl, rfl, rfl⟩ | ⟨rfl, rfl, rfl⟩ | ⟨rfl, rfl, rfl⟩ | ⟨rfl, rfl, rfl⟩ | ⟨rfl, rfl, rfl⟩ := h <;> rfl

/-- Settles O23: SCD is one request, whatever `n` is (D31). -/
theorem scrollDownEmits : Obligations.ScrollDownEmits :=
  fun _ n => ⟨decode_encode (.scd n), exec_requestsDisplay rfl⟩

/-- Settles O24: EXIT writes ES and appends one effect, and reports nothing (D32). -/
theorem exitHalts : Obligations.ExitHalts :=
  ⟨decode_encode .exit, fun _ => ⟨_, rfl, rfl, rfl, rfl, .of_eq rfl rfl⟩⟩

/-! ## The reference display by itself (R192 to R197) -/

theorem onScreen_iff (m : Resolution) (px py : Nat) :
    onScreen m px py = true ↔ px < screenWidth m ∧ py < screenHeight m := by
  simp [onScreen]

/-- Settles O29, from what each scroll makes `Frame.pixel` read (D23). -/
theorem referenceScrolls : Obligations.ReferenceScrolls := by
  intro d n w h px py hmode hpx hpy
  obtain ⟨hw, hh⟩ : screenWidth d.mode = w ∧ screenHeight d.mode = h := by
    obtain ⟨hm, rfl, rfl⟩ | ⟨hm, rfl, rfl⟩ := hmode <;> rw [hm] <;> exact ⟨rfl, rfl⟩
  have hin : decide (px < 128 ∧ py < 64) = true := decide_eq_true ⟨hpx, hpy⟩
  refine ⟨?_, ?_, ?_, rfl, rfl, rfl⟩
  · rw [RefDisplay.pixel_scrollDown, hin, Bool.true_and]
    simp only [onScreen_iff, hw, hh, ← Nat.not_lt, ite_not]
  · rw [RefDisplay.pixel_scrollRight, hin, Bool.true_and]
    simp only [onScreen_iff, hw, hh, ← Nat.not_lt, ite_not]
  · rw [RefDisplay.pixel_scrollLeft, hin, Bool.true_and]
    simp only [onScreen_iff, hw, hh, Nat.lt_sub_iff_add_lt]

/-- `set_pixel` on a position of the buffer inverts that pixel and no other (R193). -/
theorem RefDisplay.pixel_setPixel (d : RefDisplay) {px py : Nat} (hx : px < 128) (hy : py < 64) (qx qy : Nat) :
    Frame.pixel (d.setPixel px py).2.fb qx qy =
      if qx = px ∧ qy = py then !Frame.pixel d.fb px py else Frame.pixel d.fb qx qy := by
  simp only [RefDisplay.setPixel_fb, Frame.pixel_flip, hx, hy, and_true]

/-- A request that blanks the reference display and leaves it in mode `m`. -/
theorem exec_blanks {s : State} {d : RefDisplay} {i : Instr} {m : Resolution} {change : RefDisplay → RefDisplay}
    {e : Effect} (hd : s.ports.display = .reference d) (h : exec i s = .next (s.requestDisplay change e))
    (hc : change d = { mode := m, fb := Frame.blank }) :
    ∃ t d', exec i s = .next t ∧ t.ports.display = .reference d' ∧ d'.mode = m ∧
      (∀ px py, Frame.pixel d'.fb px py = false) ∧ t.askResolution.1 = m := by
  have hdisplay : (s.requestDisplay change e).ports.display = .reference { mode := m, fb := Frame.blank } := by
    rw [State.requestDisplay_ports, hd, Display.request_reference, hc]
  exact ⟨_, _, h, hdisplay, rfl, Frame.pixel_blank, by rw [State.askResolution_reference _ _ hdisplay]⟩

/-- Settles O30: CLS, LOW and HIGH blank the buffer, `set_pixel` inverts one pixel (D23). -/
theorem referencePort : Obligations.ReferencePort := by
  refine ⟨fun s d i m hd hi => ?_, fun d px py hx hy => ⟨rfl, rfl, d.pixel_setPixel hx hy⟩,
    fun s => ⟨RefDisplay.blank, rfl, rfl, Frame.pixel_blank⟩⟩
  obtain ⟨rfl, rfl⟩ | ⟨rfl, rfl⟩ | ⟨rfl, rfl⟩ := hi
  · exact exec_blanks (change := RefDisplay.clear) hd rfl rfl
  · exact exec_blanks (change := fun d => d.setMode .low) hd rfl rfl
  · exact exec_blanks (change := fun d => d.setMode .high) hd rfl rfl

/-! ## DRW on either side of the end of memory (R180) -/

theorem exec_drw_of_fits {s : State} {x y n : Nibble}
    (h : spriteBytes n s.askResolution.1 > 0 → s.i.toNat + spriteBytes n s.askResolution.1 - 1 ≤ 4095) :
    exec (.drw x y n) s =
      .next (s.askResolution.2.drawPixels (s.drawnPixels s.askResolution.1 x y n)) := by
  obtain ⟨he, -⟩ | ⟨-, hx⟩ := exec_drw_cases s x y n
  · simp only [executeError, Option.ite_none_right_eq_some] at he
    omega
  · exact hx

theorem exec_drw_past {s : State} {x y n : Nibble} (hn : spriteBytes n s.askResolution.1 > 0)
    (h : s.i.toNat + spriteBytes n s.askResolution.1 - 1 > 4095) :
    exec (.drw x y n) s = .next (s.askResolution.2.raise (.memoryError 0x1000)) := by
  obtain ⟨-, hx⟩ | ⟨he, -⟩ := exec_drw_cases s x y n
  · exact hx
  · simp only [executeError, if_pos (And.intro hn h)] at he
    cases he

/-- Settles O26: the error is taken after one query of the resolution, which may count a free answer. -/
theorem drawPastMemoryRaises : Obligations.DrawPastMemoryRaises := by
  intro s x y n hn hpast
  obtain ⟨k, hk⟩ := s.askResolution_frame
  refine ⟨_, exec_drw_past hn hpast, rfl, rfl, ?_, .of_eq s.askResolution_mem s.askResolution_params⟩
  rw [hk]
  rfl

/-! ## DRW on any display (R180) -/

theorem spriteShape_eq {n : Nibble} {res : Resolution} {rows cols bpr : Nat}
    (h : (n ≠ 0 ∧ rows = n.toNat ∧ cols = 8 ∧ bpr = 1) ∨ (n = 0 ∧ res = .high ∧ rows = 16 ∧ cols = 16 ∧ bpr = 2) ∨
      (n = 0 ∧ res = .low ∧ rows = 0 ∧ cols = 8 ∧ bpr = 1)) : spriteShape n res = ⟨rows, cols, bpr⟩ := by
  obtain ⟨hn, rfl, rfl, rfl⟩ | ⟨rfl, rfl, rfl, rfl, rfl⟩ | ⟨rfl, rfl, rfl, rfl, rfl⟩ := h
  · exact if_pos hn
  · rfl
  · rfl

theorem spritePosition_eq (res : Resolution) (x y r c : Nat) :
    spritePosition res x y r c =
      ((x + c) % (if res = .low then 64 else 128), (y + r) % (if res = .low then 32 else 64)) := by
  cases res <;> rfl

/-- Drawing writes VF, the effects and the ports. -/
theorem State.drawPixels_frame (ps : List (Nat × Nat)) (s : State) :
    s.drawPixels ps =
      { s with v := (s.drawPixels ps).v, out := (s.drawPixels ps).out, ports := (s.drawPixels ps).ports } := by
  obtain ⟨p, es, h⟩ := State.togglePixels_frame ps s
  rw [State.drawPixels, h]
  rfl

theorem State.drawPixels_flag (ps : List (Nat × Nat)) (s : State) :
    ((s.drawPixels ps).getV 15).toNat = if (s.togglePixels ps).1 then 1 else 0 := by
  rw [State.drawPixels, State.getV_setVF, if_pos rfl, toNat_flagByte]

/-- Drawing appends one effect per position with the answer it got, and VF is 1 exactly when some answer was 1. -/
theorem State.drawPixels_answers (ps : List (Nat × Nat)) (s : State) :
    ∃ answers : List Bool, answers.length = ps.length ∧
      (s.drawPixels ps).out = { s.out with
        effects := (s.out.effects ++ (ps.zip answers).map fun p => Effect.pixelToggle p.1.1 p.1.2 p.2) } ∧
      ((s.drawPixels ps).getV 15).toNat = if answers.any id then 1 else 0 := by
  obtain ⟨answers, hlen, hany, hout⟩ := State.togglePixels_out ps s
  refine ⟨answers, hlen, hout, ?_⟩
  rw [State.drawPixels_flag, hany]

/-- The ports after drawing over the resolution query: an external display has given more answers, the reference display stays
one in its mode. -/
theorem State.drawPixels_askResolution_ports (ps : List (Nat × Nat)) (s : State) :
    (s.ports.display = .external → (s.askResolution.2.drawPixels ps).ports =
      { s.ports with draws := (s.askResolution.2.drawPixels ps).ports.draws }) ∧
    ∀ d, s.ports.display = .reference d →
      ∃ d', (s.askResolution.2.drawPixels ps).ports = { s.ports with display := .reference d' } ∧ d'.mode = d.mode := by
  obtain ⟨hext, href⟩ := State.togglePixels_ports ps s.askResolution.2
  refine ⟨fun hd => ?_, fun d hd => ?_⟩
  · obtain ⟨k, hk⟩ := s.askResolution_frame
    rw [hk] at hext ⊢
    exact hext hd
  · rw [State.askResolution_reference s d hd] at href ⊢
    exact href d hd

/-- Settles O25: the positions are the model's, and what drawing them leaves is said by the lemmas about `drawPixels` (D21). -/
theorem drawTogglesSpriteBits : Obligations.DrawTogglesSpriteBits := by
  intro s x y n res rows cols bpr positions hres hshape hfits hpositions
  have hsh := spriteShape_eq hshape
  have hbytes : spriteBytes n res = rows * bpr := by rw [← spriteShape_total, hsh]; rfl
  have hdrawn : s.drawnPixels res x y n = positions := by
    rw [State.drawnPixels_eq_bitPositions, hsh, hpositions]
    simp only [bitPositions, spritePosition_eq]
  rw [← hbytes] at hfits
  subst hres
  have hexec := exec_drw_of_fits (x := x) (y := y) hfits
  rw [hdrawn] at hexec
  obtain ⟨answers, hlen, hout, hvf⟩ := s.askResolution.2.drawPixels_answers positions
  obtain ⟨hexternal, hreference⟩ := s.drawPixels_askResolution_ports positions
  have hframe := s.askResolution.2.drawPixels_frame positions
  obtain ⟨k, hk⟩ := s.askResolution_frame
  refine ⟨decode_encode (.drw x y n), _, answers, hexec, hlen, ?_, hvf, ?_, ?_, ?_, hexternal, hreference⟩
  · rw [hout, s.askResolution_out]
  · exact (executed_of_exec hexec).registers_same
  · rw [hk] at hframe ⊢
    exact hframe
  · have hx := executed_of_exec hexec
    exact .of_eq (hx.mem_eq (by simp)) hx.params_eq

/-! ## DRW on the reference display is XOR (R180, R193) -/

/-- Toggling distinct positions of the buffer inverts exactly those pixels, and each answer is the pixel from before. -/
theorem State.togglePixels_reference (ps : List (Nat × Nat)) (s : State) (d : RefDisplay)
    (hd : s.ports.display = .reference d) (hps : ps.Nodup) (hbuffer : ∀ p ∈ ps, p.1 < 128 ∧ p.2 < 64) :
    ∃ d', (s.togglePixels ps).2.ports = { s.ports with display := .reference d' } ∧ d'.mode = d.mode ∧
      (∀ px py, Frame.pixel d'.fb px py = (Frame.pixel d.fb px py ^^ decide ((px, py) ∈ ps))) ∧
      ((s.togglePixels ps).1 = true ↔ ∃ p ∈ ps, Frame.pixel d.fb p.1 p.2 = true) := by
  induction ps generalizing s d with
  | nil => exact ⟨d, by rw [← hd]; rfl, rfl, by simp, by simp [State.togglePixels]⟩
  | cons p ps ih =>
    obtain ⟨hp, hps⟩ := List.nodup_cons.1 hps
    obtain ⟨hpbuffer, hbuffer⟩ := List.forall_mem_cons.1 hbuffer
    have hset := d.pixel_setPixel hpbuffer.1 hpbuffer.2
    obtain ⟨hanswer, hports⟩ := State.togglePixel_reference s p.1 p.2 d hd
    obtain ⟨d', hports', hmode, hpixel, hany⟩ := ih (s.togglePixel p.1 p.2).2 _ (by rw [hports]) hps hbuffer
    refine ⟨d', by rw [State.togglePixels, hports', hports], hmode, fun px py => ?_, ?_⟩
    · rw [hpixel, hset]
      by_cases heq : (px, py) = p
      · subst heq
        simp [hp]
      · have hne : ¬(px = p.1 ∧ py = p.2) := fun h => heq (Prod.ext h.1 h.2)
        simp [heq, hne]
    · have hrest : ∀ q ∈ ps, Frame.pixel (d.setPixel p.1 p.2).2.fb q.1 q.2 = Frame.pixel d.fb q.1 q.2 :=
        fun q hq => (hset q.1 q.2).trans
          (if_neg fun h : q.1 = p.1 ∧ q.2 = p.2 => hp (Prod.ext h.1 h.2 ▸ hq))
      rw [State.togglePixels, hanswer, Bool.or_eq_true, hany, List.exists_mem_cons_iff]
      exact or_congr_right (exists_congr fun q => and_congr_right fun hq => by rw [hrest q hq])

/-- Settles O27: the positions drawn are distinct, so no pixel is inverted twice and every answer is the pixel from before the
instruction (D21, D23). -/
theorem drawXorsReferenceDisplay : Obligations.DrawXorsReferenceDisplay := by
  intro s x y n d hd hfits
  have hres := State.askResolution_reference s d hd
  have hexec : exec (.drw x y n) s = .next (s.drawPixels (s.drawnPixels d.mode x y n)) := by
    have h := exec_drw_of_fits (s := s) (x := x) (y := y) (n := n) (by rw [hres]; exact hfits)
    rwa [hres] at h
  obtain ⟨d', hports, hmode, hpixel, hlit⟩ := State.togglePixels_reference (s.drawnPixels d.mode x y n) s d hd
    (s.nodup_drawnPixels d.mode x y n) State.drawnPixels_in_buffer
  refine ⟨_, d', hexec, hports, hmode, fun px py => ?_, ?_, ?_⟩
  · rw [hpixel, ← State.mem_drawnPixels, Bool.xor_iff_ne]
    by_cases h : (px, py) ∈ s.drawnPixels d.mode x y n <;> simp [h]
  · simp only [State.drawPixels_flag, ite_eq_left_iff, zero_ne_one, imp_false, not_not, hlit, Prod.exists,
      State.mem_drawnPixels]
  · rw [State.drawPixels_flag]
    split
    · exact .inr rfl
    · exact .inl rfl

/-- Settles O28: the first drawing leaves memory, `I` and both coordinates, so the second covers the same pixels and inverts
each again (D21, D23). -/
theorem drawTwiceRestoresReferenceDisplay : Obligations.DrawTwiceRestoresReferenceDisplay := by
  intro s x y n d hx hy hd hfits
  obtain ⟨t, d₁, hexec₁, hports₁, hmode₁, hpixel₁, -⟩ := drawXorsReferenceDisplay s x y n d hd hfits
  have hexecuted := executed_of_exec hexec₁
  have hi : t.i = s.i := hexecuted.i_eq (by simp)
  have hmem : SameMemory s t := .of_eq (hexecuted.mem_eq (by simp)) hexecuted.params_eq
  have hregs : SameRegistersBut [15] s t := hexecuted.registers_same
  have hcovers := spriteCovers_congr hi hmem (hregs x (by simpa using hx)) (hregs y (by simpa using hy))
  obtain ⟨u, d₂, hexec₂, hports₂, hmode₂, hpixel₂, -⟩ :=
    drawXorsReferenceDisplay t x y n d₁ (by rw [hports₁]) (by rw [hi, hmode₁]; exact hfits)
  refine ⟨t, u, d₂, hexec₁, hexec₂, by rw [hports₂], hmode₂.trans hmode₁, fun px py => ?_⟩
  rw [Bool.eq_iff_iff, hpixel₂, hpixel₁, hmode₁, hcovers]
  tauto

end Sys2Proof.Machine

/-! The key wait (47_key_wait.md): how it begins, and how a delivered key ends it. -/

namespace Sys2Proof.Machine

/-- Settles O31: the word is the encoding of LD Vx,K, and the execute phase is one write of ES. -/
theorem keyReadWaits : Obligations.KeyReadWaits :=
  fun s x => ⟨decode_encode (.ldVxK x), s.setEs (.awaitingKey x), rfl, rfl, rfl, .of_eq rfl rfl⟩

/-- A key keeps its value as a byte (47_key_wait.md R201). -/
theorem toNat_zext8 (k : Nibble) : (zext8 k).toNat = k.toNat :=
  BitVec.toNat_setWidth_of_le (by decide)

/-- In a wait a key is one register write, the return to Ready, and the end of the boot window. -/
theorem State.deliverKey_of_awaitingKey {s : State} {x : Nibble} (k : Nibble) (h : s.es = .awaitingKey x) :
    s.deliverKey k = { (s.setV x (zext8 k)).setEs .ready with booting := false } := by
  rw [State.deliverKey, h]

/-- Settles O32: of the three parts of the completion only the register write shows in the registers, and none touches PC or
memory. -/
theorem deliveredKeyEndsWait : Obligations.DeliveredKeyEndsWait := by
  intro s x k hwait
  refine ⟨_, congrArg Host.Outcome.next (State.deliverKey_of_awaitingKey k hwait), ?_, rfl,
    s.setV_sameRegistersBut x (zext8 k), rfl, .of_eq rfl rfl⟩
  calc ((s.setV x (zext8 k)).getV x).toNat
      = (zext8 k).toNat := by rw [State.getV_setV, if_pos rfl]
    _ = k.toNat := toNat_zext8 k

end Sys2Proof.Machine

/-! The step and the errors (60_exceptions.md): what a step is in each engine state, what a step that raises leaves, and which
instructions take no notice of the ports. -/

namespace Sys2Proof.Machine

/-! ## The step by phases (R210, R211) -/

theorem step_of_not_ready {s : State} (h : s.es ≠ .ready) : step s = .next s.beginStep := by
  obtain ⟨-, hst⟩ | ⟨hr, -⟩ | ⟨_, hr, -⟩ | ⟨_, _, hr, -⟩ := step_cases s
  · exact hst
  all_goals exact absurd hr h

theorem step_of_fetch_error {s : State} {e : EngineError} (hes : s.es = .ready) (hf : s.fetch = .error e) :
    step s = .next (s.beginStep.raise e) := by
  have hf' : s.beginStep.fetch = .error e := hf
  simp only [step, hes, readyStep, hf']

theorem step_of_decode_error {s : State} {w : OpCode} (hes : s.es = .ready) (hf : s.fetch = .ok w)
    (hd : ∀ i, decode w ≠ .ok i) : step s = .next (s.beginStep.advance.raise (.decodeError w)) := by
  have hf' : s.beginStep.fetch = .ok w := hf
  simp only [step, hes, readyStep, hf', decode_eq_error hd]

/-- A word can be fetched everywhere but at 0xFFF (R67). -/
theorem State.pc_ne_of_fetch_ok {s : State} {w : OpCode} (h : s.fetch = .ok w) : s.pc ≠ 0xFFF := by
  intro hpc
  rw [State.fetch_eq, hpc] at h
  cases h

/-! ## A step that raises (R216 to R218) -/

/-- From an empty report, the execute phase reports by taking the error over the state as it was, but for the count of free
answers. -/
theorem Executed.eq_raise_of_report {s t : State} {i : Instr} {e : EngineError} (h : Executed s i t)
    (hs : s.out.report = none) (ht : t.out.report = some e) :
    ∃ n, t = State.raise { s with ports := { s.ports with draws := n } } e := by
  cases h with
  | raises n he => cases ht; exact ⟨n, rfl⟩
  | drw => simp [State.drawPixels, hs] at ht
  | _ => cases hs.symm.trans ht

/-- A step that reports an error took it in the state before, PC advanced unless the fetch failed (D9, D12). -/
theorem step_eq_raise_of_report {s t : State} {e : EngineError} (h : step s = .next t) (hr : t.out.report = some e) :
    ∃ n, t = State.raise { s.beginStep with pc := if s.pc = 0xFFF then s.pc else s.pc + 2,
                                            ports := { s.ports with draws := n } } e := by
  obtain ⟨-, hst⟩ | ⟨-, hpc, hst⟩ | ⟨w, -, hf, -, hst⟩ | ⟨w, i, -, hf, -, hst⟩ := step_cases s
  · cases hst.symm.trans h
    cases hr
  · cases hst.symm.trans h
    cases hr
    rw [if_pos (BitVec.eq_of_toNat_eq hpc)]
    exact ⟨s.ports.draws, rfl⟩
  · cases hst.symm.trans h
    cases hr
    rw [if_neg (State.pc_ne_of_fetch_ok hf)]
    exact ⟨s.ports.draws, rfl⟩
  · rw [if_neg (State.pc_ne_of_fetch_ok hf)]
    exact (executed_of_exec (hst.symm.trans h)).eq_raise_of_report rfl hr

/-! ## Instructions that ask no port (R211) -/

/-- The machine with other contents of all its ports. -/
def State.withPorts (s : State) (p : Ports) : State := { s with ports := p }

theorem State.skipIf_withPorts (s : State) (p : Ports) (c : Bool) :
    (s.withPorts p).skipIf c = (s.skipIf c).withPorts p := by
  cases c <;> rfl

theorem State.requestDisplay_withPorts (s : State) (p : Ports) (c : RefDisplay → RefDisplay) (e : Effect) :
    (s.withPorts p).requestDisplay c e =
      (s.requestDisplay c e).withPorts { p with display := p.display.request c } := rfl

/-- A choice that reads no port, in its condition or in either result. -/
theorem exec_withPorts_of_ite {s t u : State} {i : Instr} {p : Ports} {c : Prop} [Decidable c]
    (hs : exec i s = .next (if c then t else u))
    (hp : exec i (s.withPorts p) = .next (if c then t.withPorts p else u.withPorts p)) :
    ∃ t p', exec i s = .next t ∧ exec i (s.withPorts p) = .next (t.withPorts p') :=
  ⟨_, p, hs, hp.trans (congrArg Host.Outcome.next (apply_ite (·.withPorts p) c t u).symm)⟩

/-- With other ports, an instruction that asks none does the same to the rest of the machine. -/
theorem exec_withPorts (i : Instr) (hi : asksPorts i = false) (s : State) (p : Ports) :
    ∃ t p', exec i s = .next t ∧ exec i (s.withPorts p) = .next (t.withPorts p') := by
  cases i with
  | skp | sknp | rnd | drw => cases hi
  | scd | cls | scr | scl | low | high =>
    exact ⟨_, _, rfl, congrArg Host.Outcome.next (s.requestDisplay_withPorts p _ _)⟩
  | seImm | sneImm | seReg | sneReg => exact ⟨_, p, rfl, congrArg Host.Outcome.next (s.skipIf_withPorts p _)⟩
  | ldB x => exact exec_withPorts_of_ite (exec_ldB_eq s x) (exec_ldB_eq _ x)
  | ldMemVx x => exact exec_withPorts_of_ite (exec_ldMemVx_eq s x) (exec_ldMemVx_eq _ x)
  | ldVxMem x => exact exec_withPorts_of_ite (exec_ldVxMem_eq s x) (exec_ldVxMem_eq _ x)
  | call nnn =>
    by_cases h : s.sp.val < 16
    · exact ⟨_, p, exec_call_of_lt nnn h, exec_call_of_lt (s := s.withPorts p) nnn h⟩
    · have hfull : s.sp.val = 16 := by omega
      exact ⟨_, p, exec_call_full nnn hfull, exec_call_full (s := s.withPorts p) nnn hfull⟩
  | ret =>
    by_cases h : s.sp.val = 0
    · exact ⟨_, p, exec_ret_empty h, exec_ret_empty (s := s.withPorts p) h⟩
    · have hpos : 0 < s.sp.val := by omega
      exact ⟨_, p, exec_ret_of_pos hpos, exec_ret_of_pos (s := s.withPorts p) hpos⟩
  | _ => exact ⟨_, p, rfl, rfl⟩

/-! ## The word laid down (log 11) -/

/-- Laying a word down makes the engine Ready and leaves registers and stack. -/
theorem State.withFetchWord_ready_and_kept (s : State) (nbits w : Nat) :
    (s.withFetchWord nbits w).es = .ready ∧ (s.withFetchWord nbits w).v = s.v ∧ (s.withFetchWord nbits w).i = s.i ∧
      (s.withFetchWord nbits w).sp = s.sp ∧ (s.withFetchWord nbits w).stack = s.stack := by
  simp only [State.withFetchWord, State.placeWord]
  split <;> exact ⟨rfl, rfl, rfl, rfl, rfl⟩

theorem decode_tableWord_of_some {nbits w : Nat} {i : Instr} (h : decodeTableWord nbits w = some i) :
    decode (tableWord nbits w) = .ok i := by
  rw [decodeTableWord_eq] at h
  cases hd : decode (tableWord nbits w) with
  | ok j =>
    rw [hd] at h
    exact congrArg _ (Option.some.inj h)
  | error f =>
    rw [hd] at h
    cases h

/-! ## The timers (R226) -/

/-- Subtraction on naturals stops at 0, as a timer does (D20). -/
theorem toNat_timerTick (b : Byte) : (timerTick b).toNat = b.toNat - 1 := by
  have hb := b.isLt
  unfold timerTick
  split
  · have hone : (1 : Byte).toNat = 1 := rfl
    rw [toNat_byte_sub, hone]
    omega
  · omega

/-! ## The obligations -/

/-- Settles O53: the invariant's step lemma, for every state that meets it. -/
theorem stepKeepsInvariant : Obligations.StepKeepsInvariant := fun _ _ hs h => hs.step h

/-- Settles O37: an error is taken over the state before the step, so all else is as it was (D9, D12). -/
theorem errorsArePrecise : Obligations.ErrorsArePrecise := by
  intro s t e _ h hr
  obtain ⟨n, rfl⟩ := step_eq_raise_of_report h hr
  exact ⟨rfl, rfl, rfl, rfl, .of_eq rfl rfl⟩

/-- Settles O49: what the instruction leaves with other ports differs in the ports alone. -/
theorem otherInstructionsIgnorePorts : Obligations.OtherInstructionsIgnorePorts := by
  intro s t i p hi h
  obtain ⟨t', p', ht, hu⟩ := exec_withPorts i hi s p
  cases ht.symm.trans h
  exact ⟨_, hu, rfl⟩

/-- Settles O59: the fetch reads the word laid down, and laying it down moves PC from 0xFFF only. -/
theorem placedWordRunsNext : Obligations.PlacedWordRunsNext := by
  intro s w i h
  obtain ⟨hes, hv, hi, hsp, hstack⟩ := s.withFetchWord_ready_and_kept 16 w
  refine ⟨_, hes, step_of_decode hes (s.withFetchWord_fetch 16 w) (decode_tableWord_of_some h), rfl, hv, hi, hsp,
    hstack, ?_⟩
  rw [← s.withFetchWord_pc 16 w]
  exact BitVec.toNat_add ..

/-- Settles O33: each clause is the phase in which the step ends (D12). -/
theorem stepRunsDecodedInstruction : Obligations.StepRunsDecodedInstruction := by
  intro s hes
  refine ⟨fun hpc i hd => ?_, fun hpc hd => ?_, fun hpc => ?_⟩
  · exact step_of_decode hes (s.fetch_eq.trans (if_pos hpc)) hd
  · exact ⟨_, step_of_decode_error hes (s.fetch_eq.trans (if_pos hpc)) hd, BitVec.toNat_add ..,
      State.raise_errorTaken ..⟩
  · exact ⟨_, step_of_fetch_error hes (s.fetch_eq.trans (if_neg (by omega))), rfl, State.raise_errorTaken ..⟩

/-- Settles O34: a waiting engine is not Ready. -/
theorem waitingStepIdles : Obligations.WaitingStepIdles :=
  fun s x h => step_of_not_ready (s := s) (by simp [h])

/-- Settles O35: a halted engine is not Ready (D19), and a key outside a wait is dropped (D18). -/
theorem haltedStepAndStrayKeyDoNothing : Obligations.HaltedStepAndStrayKeyDoNothing := by
  refine ⟨fun s c h => step_of_not_ready (s := s) (by simp [h]), fun s k hk => ?_⟩
  obtain ⟨x, hx, -⟩ | ⟨-, h⟩ := s.deliverKey_cases k
  · exact absurd hx (hk x)
  · exact congrArg Host.Outcome.next h

/-- Settles O40: a tick asks nothing of the engine state (D20). -/
theorem ticksDecrementTimers : Obligations.TicksDecrementTimers :=
  fun s => ⟨s.tickTimers, rfl, toNat_timerTick s.dt, toNat_timerTick s.st, rfl, .of_eq rfl rfl⟩

end Sys2Proof.Machine

/-! Reset and boot (70_reset_and_hazards.md): reset from any state, and the first step after it, with an image loaded and
without. -/

namespace Sys2Proof.Machine

/-! ## An image whose first word is at PC (R242) -/

theorem OpCode.highByte_append_kk (w : OpCode) : w.highByte ++ w.kk = w := by simp

/-- The first two bytes stored at PC are the word fetched next (R68). -/
theorem State.fetch_storeBytes_pc (s : State) (w : OpCode) (rest : List Byte) (h : s.pc.toNat < 0xFFF) :
    (s.storeBytes s.pc.toNat (w.highByte :: w.kk :: rest)).fetch = .ok w := by
  have hhi := s.byteAt_storeBytes_inside s.pc.toNat (w.highByte :: w.kk :: rest) 0 (by simp)
  have hlo := s.byteAt_storeBytes_inside s.pc.toNat (w.highByte :: w.kk :: rest) 1 (by simp)
  rw [State.fetch_eq, State.storeBytes_pc, if_pos h]
  exact congrArg _ ((congrArg₂ _ hhi hlo).trans (OpCode.highByte_append_kk w))

theorem State.load_of_fits {s : State} {origin : Addr} {bytes : List Byte} (hb : s.booting = true)
    (h : origin.toNat + bytes.length ≤ 4096) :
    s.load origin bytes = .next { s.storeBytes origin.toNat bytes with out := { effects := [], report := none } } := by
  obtain ⟨t, ht⟩ := State.load_answers origin bytes hb
  obtain ⟨-, ⟨-, rfl⟩ | ⟨hpast, -⟩⟩ := State.load_cases ht
  · exact ht
  · omega

/-- With nothing loaded, memory past the font reads 0x0000 as a word. -/
theorem fetch_resetWith {p : Params} (hp : p.wellFormed = true) (hfont : p.fontBase.toNat + 80 ≤ p.origin.toNat)
    (horigin : p.origin.toNat < 0xFFF) : (State.resetWith p).fetch = .ok 0x0000 := by
  obtain ⟨-, -, -, -, -, -, -, -, -, hzero⟩ := resetValues p hp
  have hhi := hzero p.origin.toNat (.inr hfont)
  have hlo := hzero (p.origin.toNat + 1) (.inr (by omega))
  exact (State.fetch_eq _).trans ((if_pos horigin).trans (congrArg _ (congrArg₂ _ hhi hlo)))

/-! ## The obligations -/

/-- Settles O45: the loaded image begins with the word that the first step fetches; with none that word is 0x0000, which no
row of the opcode map covers. -/
theorem bootRunsLoadedProgram : Obligations.BootRunsLoadedProgram := by
  refine ⟨fun s i rest hfits => ?_, fun p hp hfont horigin => ?_⟩
  · have hload := State.load_of_fits (s := s.resetOp) (origin := s.params.origin)
      (bytes := (encode i).highByte :: (encode i).kk :: rest) rfl (by simp only [List.length_cons]; omega)
    have hfetch := s.resetOp.fetch_storeBytes_pc (encode i) rest (by show s.params.origin.toNat < 0xFFF; omega)
    exact ⟨_, _, rfl, hload, rfl, step_of_decode rfl hfetch (decode_encode i)⟩
  · have hd : ∀ i, decode 0x0000 ≠ .ok i := fun i h => by cases h
    exact ⟨_, step_of_decode_error rfl (fetch_resetWith hp hfont horigin) hd, rfl, rfl⟩

/-- Settles O44: `reset()` keeps the parameters and the ports, whose reference display it blanks (D14). -/
theorem resetFromAnyState : Obligations.ResetFromAnyState := by
  refine fun s => ⟨s.resetOp, rfl, rfl, rfl, fun d hd => ?_⟩
  have hdisplay : s.resetOp.ports.display = .reference RefDisplay.blank :=
    congrArg (Display.request · fun _ => RefDisplay.blank) hd
  exact ⟨_, hdisplay, rfl, Frame.pixel_blank⟩

end Sys2Proof.Machine
